-- ==== Sys2Proof/Word.lean ====
section
/-! DEFINITION. The word types of the block (spec rules R9, R10, R12): bytes, 16-bit and 32-bit words, byte strings. -/

namespace Sys2Proof

/-- A byte, `u8` of R10: function codes, slave addresses, unit ids, exception codes, stream bytes. -/
abbrev Byte := BitVec 8

/-- A 16-bit word, `u16` of R10: addresses, counts, transaction ids, CRC values, register values. -/
abbrev U16 := BitVec 16

/-- A 32-bit word, `u32` of R10: command words, CSR values, integer operands "each below 2^32" (R112), binary32 patterns. -/
abbrev U32 := BitVec 32

/-- A byte string (R12): a finite list of bytes, index 0 first on the wire. -/
abbrev Bytes := List Byte

end Sys2Proof
end

