-- ==== Sys2Proof/Machine/Types.lean ====
section
/-! DEFINITION. The data types of the block: PDU values, result and operand bundles, phase registers, the records of the
pending map, the writer queue and the waiters, and the events of the agents' interleaving. Types only: every function on
them stands in a file of its own. -/

namespace Sys2Proof.Machine

/-- The fourteen PDU variant tags of R116, in index order (v = 0 to 13). -/
inductive Variant where
  | rbq | rbs | wsbq | wsbs | wmbq | wmbs | rrq | rrs | wsrq | wsrs | wmrq | wmrs | exc | raw
  deriving DecidableEq, Repr, Inhabited

/-- A PDU value (R19, R116): a tagged record. `raw` carries its "minimum 2 bytes" (R325) in its shape: the bytes are
`b0`, `b1` and then `rest`. The other range conditions are `PDU.valid`. -/
inductive PDU where
  | rbq (fc : Byte) (start count : U16)
  | rbs (fc : Byte) (bits : Bytes)
  | wsbq (fc : Byte) (start : U16) (value : Bool)
  | wsbs (fc : Byte) (start : U16) (value : Bool)
  | wmbq (fc : Byte) (start count : U16) (values : Bytes)
  | wmbs (fc : Byte) (start count : U16)
  | rrq (fc : Byte) (start count : U16)
  | rrs (fc : Byte) (values : Bytes)
  | wsrq (fc : Byte) (address : U16) (value : Bytes)
  | wsrs (fc : Byte) (address : U16) (value : Bytes)
  | wmrq (fc : Byte) (address count : U16) (values : Bytes)
  | wmrs (fc : Byte) (address count : U16)
  | exc (errorCode exceptionCode : Byte)
  | raw (b0 b1 : Byte) (rest : Bytes)
  deriving DecidableEq, Repr, Inhabited

/-- The status codes of R461, by name. -/
inductive Status where
  | ok | errValidation | errDecode | errIoWrite | errIoRead | errBadCrc | errAddrMismatch | errUnsupportedFc
  | errTimeout | errClosed | errIllegalOp | errIo
  deriving DecidableEq, Repr, Inhabited

/-- The detail codes of R462, by name. -/
inductive Detail where
  | none | fc | width | count | addr | len | errCode | exCode | frameLen | byteCount | coilValue | oddWords
  | noResponseShape | encoding | operand | csr | short | ioErr | deadline | closed
  deriving DecidableEq, Repr, Inhabited

/-- The result bundle of R113; a field a command does not name is absent (`Option.none`). `pdu` is of type "PDU | none"
in the spec, so that a present `none` (a broadcast, R362) is `some none` here. -/
structure Result where
  status : Status
  detail : Option Detail := Option.none
  value  : Option U32 := Option.none
  data   : Option Bytes := Option.none
  words  : Option (List U16) := Option.none
  bools  : Option (List Bool) := Option.none
  floats : Option (List U32) := Option.none
  pdu    : Option (Option PDU) := Option.none
  got    : Option U16 := Option.none
  want   : Option U16 := Option.none
  frame  : Option Bytes := Option.none
  deriving DecidableEq, Repr, Inhabited

/-- The operand bundle of R112. -/
structure Operands where
  n0    : U32 := 0
  n1    : U32 := 0
  n2    : U32 := 0
  data  : Bytes := []
  words : List U16 := []
  bools : List Bool := []
  pdu   : PDU := .raw 0 0 []
  pdu2  : PDU := .raw 0 0 []
  deriving DecidableEq, Repr, Inhabited

/-- The command port while a command is executed: the issuing host `h` of `HOST[h]` (R30), the operand bundle (R112) and
the environment's draw for the commands that draw their result (R375, R425). -/
structure Port where
  host : Nat := 0
  ops  : Operands := {}
  draw : Nat := 0
  deriving DecidableEq, Repr, Inhabited

/-- `rtu_phase` (R45). -/
inductive RtuPhase where
  | idle | send | hdr | len | body | closed
  deriving DecidableEq, Repr, Inhabited

/-- `tw_state` (R54). -/
inductive TwState where
  | run | stop
  deriving DecidableEq, Repr, Inhabited

/-- `tr_state` (R55). -/
inductive TrState where
  | rdHdr (buf : Bytes)
  | rdBody (tid : U16) (unit : Byte) (need : Nat) (buf : Bytes)
  | rdStop
  deriving DecidableEq, Repr, Inhabited

/-- The connection-fatal causes of R465, `tcp_fatal` (R58). -/
inductive FatalCause where
  | none | protocolId | unknownTid | unitMismatch | io | length
  deriving DecidableEq, Repr, Inhabited

/-- A waiter's `phase` (R56). -/
inductive WaitPhase where
  | check | alloc | reg | wait | done
  deriving DecidableEq, Repr, Inhabited

/-- A waiter slot `WAIT[c]` (R56). -/
structure Waiter where
  host   : Nat
  unit   : Byte
  req    : PDU
  tid    : U16
  t0     : Nat
  tmo    : U32
  signal : Option Result
  phase  : WaitPhase
  deriving DecidableEq, Repr, Inhabited

/-- A `Record` of the pending-request map (R52). -/
structure Pending where
  unit   : Byte
  req    : PDU
  waiter : Nat
  deriving DecidableEq, Repr, Inhabited

/-- A `QItem` of the writer queue (R53). -/
structure QItem where
  tid  : U16
  unit : Byte
  req  : PDU
  deriving DecidableEq, Repr, Inhabited

/-- The sticky set of model faults (R60), one field per bit of CSR 6 (R43). -/
structure FaultSet where
  rtuBusy      : Bool := false
  tidReuse     : Bool := false
  mbapOverflow : Bool := false
  fbOverflow   : Bool := false
  deriving DecidableEq, Repr, Inhabited

/-- The outcome of one stream write (R85, R88). -/
inductive WriteOutcome where
  | full | short | ioErr
  deriving DecidableEq, Repr, Inhabited

/-- One step of one agent (R30), with the environment's draws for it. The interleaving of the agents is a sequence of
these events; an event whose guard is false does not occur (R18). -/
inductive Event where
  /-- `HOST[h]` issues command word `w` with operand bundle `ops` (R110); `draw` is the choice of R375 and R425. -/
  | issue (h : Nat) (w : U32) (ops : Operands) (draw : Nat)
  /-- `HOST[h]` consumes its result (R61). -/
  | consume (h : Nat)
  /-- `RTU` send step (R362); `SerWrite` draws `k` and `ioerr` (R85). -/
  | rtuSend (k : Nat) (ioerr : Bool)
  /-- `RTU` read step (R366, R367, R370). -/
  | rtuRead
  /-- `RTU` sees a read error that the serial device signals (R368). -/
  | rtuReadError
  /-- `RTU` deadline expiry (R369). -/
  | rtuExpire
  /-- `TW` writer step (R412); `TcpWrite` draws `k` and `ioerr` (R88). -/
  | twWrite (k : Nat) (ioerr : Bool)
  /-- `TR` reads one byte: header step (R414, R415) or body step (R416). -/
  | trRead
  /-- `TR` sees the connection end or break from the peer's side (R418). -/
  | trIoError
  /-- `WAIT[c]` takes the step of its phase: closed check, allocation, registration or completion (R402, R404, R405, R406). -/
  | waiterRun (c : Nat)
  /-- `WAIT[c]` times out (R407). -/
  | waiterTimeout (c : Nat)
  /-- `ENV`: one millisecond passes (R59). -/
  | tick
  /-- `ENV`: the serial device appends a byte to `ser_in` (R87). -/
  | serArrive (b : Byte)
  /-- `ENV`: the stream peer appends a byte to `tcp_in` (R90). -/
  | tcpArrive (b : Byte)
  /-- The reset event (R500). -/
  | reset
  deriving DecidableEq, Repr, Inhabited

end Sys2Proof.Machine
end

