-- ==== Sys2Proof/Config.lean ====
section
/-! DEFINITION. The implementation parameters of R8, each at the value this hardware gives it, and the free schedule of
the agents and the free values. -/

namespace Sys2Proof.Config

open Sys2Proof.Machine

/-- `MAX_PDU` (R8, R122), bytes. -/
def maxPdu : Nat := 253
/-- `RB_COUNT_MIN` (R8, R201). -/
def rbCountMin : Nat := 1
/-- `RB_COUNT_MAX` (R8, R201). -/
def rbCountMax : Nat := 2000
/-- `RB_ADDR_END` (R8, R201). -/
def rbAddrEnd : Nat := 0xFFFF
/-- `RBS_LEN_MAX` (R8, R205): `MAX_PDU - 2`. -/
def rbsLenMax : Nat := 251
/-- `WMB_COUNT_MAX` (R8, R217). -/
def wmbCountMax : Nat := 0x7B0
/-- `RR_ADDR_LIMIT` (R8, R261; the source's literal, 90_conflicts C3, D49). -/
def rrAddrLimit : Nat := 0xFF
/-- `RRS_LEN_MAX` (R8, R265; D10). -/
def rrsLenMax : Nat := 250
/-- `WMR_COUNT_MIN` (R8, R277). -/
def wmrCountMin : Nat := 1
/-- `WMR_COUNT_MAX` (R8, R277). -/
def wmrCountMax : Nat := 0x7B
/-- `RAW_LEN_MIN` (R8, R325). -/
def rawLenMin : Nat := 2
/-- `COIL_ON` (R8, R126). -/
def coilOn : U16 := 0xFF00
/-- `COIL_OFF` (R8, R126). -/
def coilOff : U16 := 0x0000
/-- `CRC_POLY`, reflected (R8, R164). -/
def crcPoly : U16 := 0xA001
/-- `CRC_INIT` (R8, R164). -/
def crcInit : U16 := 0xFFFF
/-- `RTU_READ_TIMEOUT_MS` (R8, R37). -/
def rtuReadTimeoutMs : U32 := 300
/-- `TCP_REQ_TIMEOUT_MS` (R8, R38). -/
def tcpReqTimeoutMs : U32 := 500
/-- `MBAP_PROTOCOL_ID` (R8, R131). -/
def mbapProtocolId : U16 := 0
/-- `TID_RESET` (R8, R51; D24). -/
def tidReset : U16 := 0
/-- `QUEUE_DEPTH` (R8, R53; D26): `none` is unbounded. -/
def queueDepth : Option Nat := none
/-- `FB_CAPACITY` (R8, R35; D36): `none` is unbounded. -/
def fbCapacity : Option Nat := none
/-- `RTU_READ_FCS` (R8, R132; D17). -/
def rtuReadFcs : List Byte := [0x01, 0x02, 0x03, 0x04]
/-- `RTU_WRITE_FCS` (R8, R132; D17). -/
def rtuWriteFcs : List Byte := [0x05, 0x06, 0x0F, 0x10]

/-- The free schedule (R17, R18, R30): which agent steps next, and with which draws, once the inputs listed in the state
are used up. It has no body: nothing can be proved about its values, so a claim about a run holds whatever the agents and
the environment do (log entry 2). -/
opaque freeEvent : Nat → Event

/-- The length word of an `MBAP_FRAME` whose PDU has this many bytes, more than 0xFFFE: 1 + length is no u16, and the spec
gives the pseudo-command no result there and forbids assuming wrap-around (R141, 91_not_in_source N14). It has no body, so
nothing can be proved about it. DESIGN CHOICE (log entry 12). -/
opaque freeMbapLength : Nat → U16

end Sys2Proof.Config
end

