-- ==== Sys2Proof/Syntax.lean ====
section
/-! DEFINITION. The instructions: one constructor per row of spec/opcode_table.json. The 77 command rows are the commands
of R114; the ten `rtu_resp_fc` rows are the response classes of R132, which the RTU framer executes on the function-code
byte of a response header. Typed operands travel in the operand bundle (R112), not in the instruction. -/

namespace Sys2Proof

/-- One constructor per row of the opcode table, in the table's order. The argument of a `CMD_ARG` row is the `arg` field
(R115); the argument of a response class whose row leaves bits open is the function-code byte. -/
inductive Instr where
  -- CRC-16 engine (40_crc)
  | crcInit | crcWrite | crcRead | crcChecksum
  -- Frame Builder (41_frame_builder)
  | fbReset | fbAppendBytes | fbAppendU16 | fbFinalizeRaw | fbFinalizeCrc
  -- constructors (42, 43, 44)
  | newRbq | newRbs | newWsbq | newWsbs | newWmbq | newWmbs | newRrq | newRrs | newWsrq | newWsrs | newWmrq
  | newWmrs | newExc | newRaw
  -- marshal (42, 43, 44)
  | marshalRbq | marshalRbs | marshalWsbq | marshalWsbs | marshalWmbq | marshalWmbs | marshalRrq | marshalRrs
  | marshalWsrq | marshalWsrs | marshalWmrq | marshalWmrs | marshalExc | marshalRaw
  -- unmarshal (42, 43, 44)
  | unmarshalRbq | unmarshalRbs | unmarshalWsbq | unmarshalWsbs | unmarshalWmbq | unmarshalWmbs | unmarshalRrq
  | unmarshalRrs | unmarshalWsrq | unmarshalWsrs | unmarshalWmrq | unmarshalWmrs | unmarshalExc | unmarshalRaw
  -- generic codec commands (44_pdu_generic)
  | decodeResponse | bytesToBools | boolsToBytes | regsToU16 | regsToF32 | pduFc
  -- transports (45_rtu, 46_tcp)
  | rtuWriteRequest (slave : Byte) | rtuClose | tcpWriteRequest (unit : Byte) | tcpClose
  -- CSR access (44_pdu_generic)
  | csrRead (csr : Byte) | csrWrite (csr : Byte)
  -- reinterpretation (44_pdu_generic R330)
  | reinterpretRbq | reinterpretRbs | reinterpretWsbq | reinterpretWsbs | reinterpretWmbq | reinterpretWmbs
  | reinterpretRrq | reinterpretRrs | reinterpretWsrq | reinterpretWsrs | reinterpretWmrq | reinterpretWmrs
  | reinterpretExc | reinterpretRaw
  -- RTU response dispatch rows (30_encoding R132)
  | rtuRespException (fc : Byte) | rtuRespReadFc01 | rtuRespReadFc02 | rtuRespReadFc03 | rtuRespReadFc04
  | rtuRespWriteFc05 | rtuRespWriteFc06 | rtuRespWriteFc0F | rtuRespWriteFc10 | rtuRespUnsupported (fc : Byte)
  deriving DecidableEq, Repr, Inhabited

end Sys2Proof
end

