-- ==== Sys2Proof/WellFormed.lean ====
section
/-! DEFINITION. Well-formed instructions: the conditions the opcode table puts on an instruction's fields beyond their
widths. Only two rows leave bits of the function code open (R119, R132). -/

namespace Sys2Proof

/-- Bit 7 of a function code "denotes an exception response" (R123). -/
def isExceptionFc (fc : Byte) : Bool := fc.getLsbD 7

/-- The function codes that a row of R132 before the last one matches. -/
def isDispatchedFc (fc : Byte) : Bool :=
  isExceptionFc fc || Config.rtuReadFcs.contains fc || Config.rtuWriteFcs.contains fc

/-- `RTU_RESP_EXCEPTION` needs bit 7 of its byte set; `RTU_RESP_UNSUPPORTED`, the last row tested, takes a byte that no
earlier row matches; every other instruction is well formed at every value of its fields. -/
def Instr.wf : Instr → Bool
  | .rtuRespException fc => isExceptionFc fc
  | .rtuRespUnsupported fc => !isDispatchedFc fc
  | _ => true

end Sys2Proof
end

