-- ==== Sys2Proof/Decode.lean ====
section
/-! DEFINITION. Decoding (R110, R114 to R119, R132) and, after it, the encoder, written from the opcode table. A command
word is one 32-bit word (R111); a response class is read from one function-code byte (R132). -/

namespace Sys2Proof

open Sys2Proof.Machine

/-- Why a command word is illegal (R117). -/
inductive Illegal where
  /-- `op` is not in the table of R114. -/
  | reservedOp
  /-- `op` names a reserved variant index, 14 or 15. -/
  | reservedVariant
  /-- `rsv` is not 0. -/
  | reservedBits
  /-- `arg` is not 0 for a command that takes none. -/
  | argument
  deriving DecidableEq, Repr

/-- The variant with index `v` (R116). -/
def variantOf : Nat → Option Variant
  | 0 => some .rbq
  | 1 => some .rbs
  | 2 => some .wsbq
  | 3 => some .wsbs
  | 4 => some .wmbq
  | 5 => some .wmbs
  | 6 => some .rrq
  | 7 => some .rrs
  | 8 => some .wsrq
  | 9 => some .wsrs
  | 10 => some .wmrq
  | 11 => some .wmrs
  | 12 => some .exc
  | 13 => some .raw
  | _ => none

/-- `NEW.<V>` (R114). -/
def Instr.newOf : Variant → Instr
  | .rbq => .newRbq
  | .rbs => .newRbs
  | .wsbq => .newWsbq
  | .wsbs => .newWsbs
  | .wmbq => .newWmbq
  | .wmbs => .newWmbs
  | .rrq => .newRrq
  | .rrs => .newRrs
  | .wsrq => .newWsrq
  | .wsrs => .newWsrs
  | .wmrq => .newWmrq
  | .wmrs => .newWmrs
  | .exc => .newExc
  | .raw => .newRaw

/-- `MARSHAL.<V>` (R114). -/
def Instr.marshalOf : Variant → Instr
  | .rbq => .marshalRbq
  | .rbs => .marshalRbs
  | .wsbq => .marshalWsbq
  | .wsbs => .marshalWsbs
  | .wmbq => .marshalWmbq
  | .wmbs => .marshalWmbs
  | .rrq => .marshalRrq
  | .rrs => .marshalRrs
  | .wsrq => .marshalWsrq
  | .wsrs => .marshalWsrs
  | .wmrq => .marshalWmrq
  | .wmrs => .marshalWmrs
  | .exc => .marshalExc
  | .raw => .marshalRaw

/-- `UNMARSHAL.<V>` (R114). -/
def Instr.unmarshalOf : Variant → Instr
  | .rbq => .unmarshalRbq
  | .rbs => .unmarshalRbs
  | .wsbq => .unmarshalWsbq
  | .wsbs => .unmarshalWsbs
  | .wmbq => .unmarshalWmbq
  | .wmbs => .unmarshalWmbs
  | .rrq => .unmarshalRrq
  | .rrs => .unmarshalRrs
  | .wsrq => .unmarshalWsrq
  | .wsrs => .unmarshalWsrs
  | .wmrq => .unmarshalWmrq
  | .wmrs => .unmarshalWmrs
  | .exc => .unmarshalExc
  | .raw => .unmarshalRaw

/-- `REINTERPRET.<V>`, `<V>` the target (R114). -/
def Instr.reinterpretOf : Variant → Instr
  | .rbq => .reinterpretRbq
  | .rbs => .reinterpretRbs
  | .wsbq => .reinterpretWsbq
  | .wsbs => .reinterpretWsbs
  | .wmbq => .reinterpretWmbq
  | .wmbs => .reinterpretWmbs
  | .rrq => .reinterpretRrq
  | .rrs => .reinterpretRrs
  | .wsrq => .reinterpretWsrq
  | .wsrs => .reinterpretWsrs
  | .wmrq => .reinterpretWmrq
  | .wmrs => .reinterpretWmrs
  | .exc => .reinterpretExc
  | .raw => .reinterpretRaw

/-- The commands of R114 that take an argument in bits 15:8 (R115). -/
def argCommand (op : Nat) (arg : Byte) : Option Instr :=
  match op with
  | 0x60 => some (.rtuWriteRequest arg)
  | 0x70 => some (.tcpWriteRequest arg)
  | 0x80 => some (.csrRead arg)
  | 0x81 => some (.csrWrite arg)
  | _ => none

/-- The commands of R114 that take no argument and belong to no variant. -/
def fixedCommand : Nat → Option Instr
  | 0x01 => some .crcInit
  | 0x02 => some .crcWrite
  | 0x03 => some .crcRead
  | 0x04 => some .crcChecksum
  | 0x10 => some .fbReset
  | 0x11 => some .fbAppendBytes
  | 0x12 => some .fbAppendU16
  | 0x13 => some .fbFinalizeRaw
  | 0x14 => some .fbFinalizeCrc
  | 0x50 => some .decodeResponse
  | 0x51 => some .bytesToBools
  | 0x52 => some .boolsToBytes
  | 0x53 => some .regsToU16
  | 0x54 => some .regsToF32
  | 0x55 => some .pduFc
  | 0x61 => some .rtuClose
  | 0x71 => some .tcpClose
  | _ => none

/-- The per-variant commands of R114: operation group (high nibble of `op`) and variant index (low nibble). -/
def variantCommand (group index : Nat) : Option Instr :=
  match group with
  | 0x2 => (variantOf index).map Instr.newOf
  | 0x3 => (variantOf index).map Instr.marshalOf
  | 0x4 => (variantOf index).map Instr.unmarshalOf
  | 0x9 => (variantOf index).map Instr.reinterpretOf
  | _ => none

/-- `op` names a variant group with a reserved index (R117). -/
def isReservedVariant (op : Nat) : Bool :=
  [0x2E, 0x2F, 0x3E, 0x3F, 0x4E, 0x4F, 0x9E, 0x9F].contains op

/-- Decoding of a command word (R119): total, and an illegal word is rejected by the name of its defect. -/
def decodeCommand (w : U32) : Except Illegal Instr :=
  let op := (w.extractLsb' 0 8).toNat
  let arg := w.extractLsb' 8 8
  if w.extractLsb' 16 16 ≠ 0 then .error .reservedBits
  else
    match argCommand op arg with
    | some i => .ok i
    | none =>
      match (fixedCommand op).or (variantCommand (op / 16) (op % 16)) with
      | some i => if arg = 0 then .ok i else .error .argument
      | none => .error (if isReservedVariant op then .reservedVariant else .reservedOp)

/-- The class of an RTU response by its function-code byte, the rows of R132 tested in the order listed. -/
def decodeRespFc (fc : Byte) : Instr :=
  if isExceptionFc fc then .rtuRespException fc
  else if fc = 0x01 then .rtuRespReadFc01
  else if fc = 0x02 then .rtuRespReadFc02
  else if fc = 0x03 then .rtuRespReadFc03
  else if fc = 0x04 then .rtuRespReadFc04
  else if fc = 0x05 then .rtuRespWriteFc05
  else if fc = 0x06 then .rtuRespWriteFc06
  else if fc = 0x0F then .rtuRespWriteFc0F
  else if fc = 0x10 then .rtuRespWriteFc10
  else .rtuRespUnsupported fc

/-- The instruction that the decoder reads from `nbits` bits `w`, numbered as the opcode table numbers them: 8 bits are the
function-code byte of a response row, anything else up to 32 bits a command word. -/
def decodeTableWord (nbits w : Nat) : Option Instr :=
  if nbits = 8 then
    if w < 2 ^ 8 then some (decodeRespFc (BitVec.ofNat 8 w)) else none
  else if nbits ≤ 32 ∧ w < 2 ^ 32 then (decodeCommand (BitVec.ofNat 32 w)).toOption
  else none

/-- An encoded instruction: its width in bits and those bits as a number, bit 0 the least significant. -/
structure Encoded where
  nbits : Nat
  word  : Nat
  deriving DecidableEq, Repr

/-- The command word of R110 with operation code `op` and argument `arg`: `rsv ‖ arg ‖ op` from the top. -/
def commandWord (op : Byte) (arg : Byte) : U32 := (0 : BitVec 16) ++ arg ++ op

/-- The encoding of a command (32 bits). -/
def encodedCommand (op : Byte) (arg : Byte := 0) : Encoded := ⟨32, (commandWord op arg).toNat⟩

/-- The encoding of a response class (one function-code byte). -/
def encodedFc (fc : Byte) : Encoded := ⟨8, fc.toNat⟩

/-- The bits of a well-formed instruction, by the `match` columns of the opcode table. -/
def encode : Instr → Encoded
  | .crcInit => encodedCommand 0x01
  | .crcWrite => encodedCommand 0x02
  | .crcRead => encodedCommand 0x03
  | .crcChecksum => encodedCommand 0x04
  | .fbReset => encodedCommand 0x10
  | .fbAppendBytes => encodedCommand 0x11
  | .fbAppendU16 => encodedCommand 0x12
  | .fbFinalizeRaw => encodedCommand 0x13
  | .fbFinalizeCrc => encodedCommand 0x14
  | .newRbq => encodedCommand 0x20
  | .newRbs => encodedCommand 0x21
  | .newWsbq => encodedCommand 0x22
  | .newWsbs => encodedCommand 0x23
  | .newWmbq => encodedCommand 0x24
  | .newWmbs => encodedCommand 0x25
  | .newRrq => encodedCommand 0x26
  | .newRrs => encodedCommand 0x27
  | .newWsrq => encodedCommand 0x28
  | .newWsrs => encodedCommand 0x29
  | .newWmrq => encodedCommand 0x2A
  | .newWmrs => encodedCommand 0x2B
  | .newExc => encodedCommand 0x2C
  | .newRaw => encodedCommand 0x2D
  | .marshalRbq => encodedCommand 0x30
  | .marshalRbs => encodedCommand 0x31
  | .marshalWsbq => encodedCommand 0x32
  | .marshalWsbs => encodedCommand 0x33
  | .marshalWmbq => encodedCommand 0x34
  | .marshalWmbs => encodedCommand 0x35
  | .marshalRrq => encodedCommand 0x36
  | .marshalRrs => encodedCommand 0x37
  | .marshalWsrq => encodedCommand 0x38
  | .marshalWsrs => encodedCommand 0x39
  | .marshalWmrq => encodedCommand 0x3A
  | .marshalWmrs => encodedCommand 0x3B
  | .marshalExc => encodedCommand 0x3C
  | .marshalRaw => encodedCommand 0x3D
  | .unmarshalRbq => encodedCommand 0x40
  | .unmarshalRbs => encodedCommand 0x41
  | .unmarshalWsbq => encodedCommand 0x42
  | .unmarshalWsbs => encodedCommand 0x43
  | .unmarshalWmbq => encodedCommand 0x44
  | .unmarshalWmbs => encodedCommand 0x45
  | .unmarshalRrq => encodedCommand 0x46
  | .unmarshalRrs => encodedCommand 0x47
  | .unmarshalWsrq => encodedCommand 0x48
  | .unmarshalWsrs => encodedCommand 0x49
  | .unmarshalWmrq => encodedCommand 0x4A
  | .unmarshalWmrs => encodedCommand 0x4B
  | .unmarshalExc => encodedCommand 0x4C
  | .unmarshalRaw => encodedCommand 0x4D
  | .decodeResponse => encodedCommand 0x50
  | .bytesToBools => encodedCommand 0x51
  | .boolsToBytes => encodedCommand 0x52
  | .regsToU16 => encodedCommand 0x53
  | .regsToF32 => encodedCommand 0x54
  | .pduFc => encodedCommand 0x55
  | .rtuWriteRequest slave => encodedCommand 0x60 slave
  | .rtuClose => encodedCommand 0x61
  | .tcpWriteRequest unit => encodedCommand 0x70 unit
  | .tcpClose => encodedCommand 0x71
  | .csrRead csr => encodedCommand 0x80 csr
  | .csrWrite csr => encodedCommand 0x81 csr
  | .reinterpretRbq => encodedCommand 0x90
  | .reinterpretRbs => encodedCommand 0x91
  | .reinterpretWsbq => encodedCommand 0x92
  | .reinterpretWsbs => encodedCommand 0x93
  | .reinterpretWmbq => encodedCommand 0x94
  | .reinterpretWmbs => encodedCommand 0x95
  | .reinterpretRrq => encodedCommand 0x96
  | .reinterpretRrs => encodedCommand 0x97
  | .reinterpretWsrq => encodedCommand 0x98
  | .reinterpretWsrs => encodedCommand 0x99
  | .reinterpretWmrq => encodedCommand 0x9A
  | .reinterpretWmrs => encodedCommand 0x9B
  | .reinterpretExc => encodedCommand 0x9C
  | .reinterpretRaw => encodedCommand 0x9D
  | .rtuRespException fc => encodedFc fc
  | .rtuRespReadFc01 => encodedFc 0x01
  | .rtuRespReadFc02 => encodedFc 0x02
  | .rtuRespReadFc03 => encodedFc 0x03
  | .rtuRespReadFc04 => encodedFc 0x04
  | .rtuRespWriteFc05 => encodedFc 0x05
  | .rtuRespWriteFc06 => encodedFc 0x06
  | .rtuRespWriteFc0F => encodedFc 0x0F
  | .rtuRespWriteFc10 => encodedFc 0x10
  | .rtuRespUnsupported fc => encodedFc fc

/-- The mnemonic of an instruction's row in the opcode table, as the assembler syntax of R140 writes it. -/
def Instr.mnemonic : Instr → String
  | .crcInit => "CRC_INIT"
  | .crcWrite => "CRC_WRITE"
  | .crcRead => "CRC_READ"
  | .crcChecksum => "CRC_CHECKSUM"
  | .fbReset => "FB_RESET"
  | .fbAppendBytes => "FB_APPEND_BYTES"
  | .fbAppendU16 => "FB_APPEND_U16"
  | .fbFinalizeRaw => "FB_FINALIZE_RAW"
  | .fbFinalizeCrc => "FB_FINALIZE_CRC"
  | .newRbq => "NEW.RBQ"
  | .newRbs => "NEW.RBS"
  | .newWsbq => "NEW.WSBQ"
  | .newWsbs => "NEW.WSBS"
  | .newWmbq => "NEW.WMBQ"
  | .newWmbs => "NEW.WMBS"
  | .newRrq => "NEW.RRQ"
  | .newRrs => "NEW.RRS"
  | .newWsrq => "NEW.WSRQ"
  | .newWsrs => "NEW.WSRS"
  | .newWmrq => "NEW.WMRQ"
  | .newWmrs => "NEW.WMRS"
  | .newExc => "NEW.EXC"
  | .newRaw => "NEW.RAW"
  | .marshalRbq => "MARSHAL.RBQ"
  | .marshalRbs => "MARSHAL.RBS"
  | .marshalWsbq => "MARSHAL.WSBQ"
  | .marshalWsbs => "MARSHAL.WSBS"
  | .marshalWmbq => "MARSHAL.WMBQ"
  | .marshalWmbs => "MARSHAL.WMBS"
  | .marshalRrq => "MARSHAL.RRQ"
  | .marshalRrs => "MARSHAL.RRS"
  | .marshalWsrq => "MARSHAL.WSRQ"
  | .marshalWsrs => "MARSHAL.WSRS"
  | .marshalWmrq => "MARSHAL.WMRQ"
  | .marshalWmrs => "MARSHAL.WMRS"
  | .marshalExc => "MARSHAL.EXC"
  | .marshalRaw => "MARSHAL.RAW"
  | .unmarshalRbq => "UNMARSHAL.RBQ"
  | .unmarshalRbs => "UNMARSHAL.RBS"
  | .unmarshalWsbq => "UNMARSHAL.WSBQ"
  | .unmarshalWsbs => "UNMARSHAL.WSBS"
  | .unmarshalWmbq => "UNMARSHAL.WMBQ"
  | .unmarshalWmbs => "UNMARSHAL.WMBS"
  | .unmarshalRrq => "UNMARSHAL.RRQ"
  | .unmarshalRrs => "UNMARSHAL.RRS"
  | .unmarshalWsrq => "UNMARSHAL.WSRQ"
  | .unmarshalWsrs => "UNMARSHAL.WSRS"
  | .unmarshalWmrq => "UNMARSHAL.WMRQ"
  | .unmarshalWmrs => "UNMARSHAL.WMRS"
  | .unmarshalExc => "UNMARSHAL.EXC"
  | .unmarshalRaw => "UNMARSHAL.RAW"
  | .decodeResponse => "DECODE_RESPONSE"
  | .bytesToBools => "BYTES_TO_BOOLS"
  | .boolsToBytes => "BOOLS_TO_BYTES"
  | .regsToU16 => "REGS_TO_U16"
  | .regsToF32 => "REGS_TO_F32"
  | .pduFc => "PDU_FC"
  | .rtuWriteRequest _ => "RTU_WRITE_REQUEST"
  | .rtuClose => "RTU_CLOSE"
  | .tcpWriteRequest _ => "TCP_WRITE_REQUEST"
  | .tcpClose => "TCP_CLOSE"
  | .csrRead _ => "CSR_READ"
  | .csrWrite _ => "CSR_WRITE"
  | .reinterpretRbq => "REINTERPRET.RBQ"
  | .reinterpretRbs => "REINTERPRET.RBS"
  | .reinterpretWsbq => "REINTERPRET.WSBQ"
  | .reinterpretWsbs => "REINTERPRET.WSBS"
  | .reinterpretWmbq => "REINTERPRET.WMBQ"
  | .reinterpretWmbs => "REINTERPRET.WMBS"
  | .reinterpretRrq => "REINTERPRET.RRQ"
  | .reinterpretRrs => "REINTERPRET.RRS"
  | .reinterpretWsrq => "REINTERPRET.WSRQ"
  | .reinterpretWsrs => "REINTERPRET.WSRS"
  | .reinterpretWmrq => "REINTERPRET.WMRQ"
  | .reinterpretWmrs => "REINTERPRET.WMRS"
  | .reinterpretExc => "REINTERPRET.EXC"
  | .reinterpretRaw => "REINTERPRET.RAW"
  | .rtuRespException _ => "RTU_RESP_EXCEPTION"
  | .rtuRespReadFc01 => "RTU_RESP_READ_FC_0x01"
  | .rtuRespReadFc02 => "RTU_RESP_READ_FC_0x02"
  | .rtuRespReadFc03 => "RTU_RESP_READ_FC_0x03"
  | .rtuRespReadFc04 => "RTU_RESP_READ_FC_0x04"
  | .rtuRespWriteFc05 => "RTU_RESP_WRITE_FC_0x05"
  | .rtuRespWriteFc06 => "RTU_RESP_WRITE_FC_0x06"
  | .rtuRespWriteFc0F => "RTU_RESP_WRITE_FC_0x0F"
  | .rtuRespWriteFc10 => "RTU_RESP_WRITE_FC_0x10"
  | .rtuRespUnsupported _ => "RTU_RESP_UNSUPPORTED"

/-- The numeric argument that R140 writes after the mnemonic, for the commands that take one. -/
def Instr.arg : Instr → Option Byte
  | .rtuWriteRequest a | .tcpWriteRequest a | .csrRead a | .csrWrite a => some a
  | _ => none

/-- `MNEMONIC [arg]` of R140, the argument in decimal; operands stand in the bundle. -/
def Instr.render (i : Instr) : String :=
  match i.arg with
  | some a => i.mnemonic ++ " " ++ toString a.toNat
  | none => i.mnemonic

end Sys2Proof
end

