-- ==== Sys2Proof/Machine/State.lean ====
section
/-! DEFINITION. The architectural state of the block (10_state), the reasons a step can stop, and the state after reset
(R500). Plain data throughout. -/

namespace Sys2Proof.Machine

/-- The model faults of R470, in the bit order of CSR 6 (R43). Once a fault is in the sticky set no agent steps (R60), so
every step but a reset stops with it. All four are safe: a run ends where the source defines no outcome. -/
inductive Fault where
  /-- `F_RTU_BUSY`: raised by `RTU_WRITE_REQUEST` and `RTU_CLOSE` while a serial request is in progress (R360, R375). Safe. -/
  | fRtuBusy
  /-- `F_TID_REUSE`: raised by a waiter that registers a transaction id still in the pending map (R405, R430). Safe. -/
  | fTidReuse
  /-- `F_MBAP_OVERFLOW`: raised by the writer loop on a PDU longer than 0xFFFE bytes (R412, R413). Safe. -/
  | fMbapOverflow
  /-- `F_FB_OVERFLOW`: raised by `FB_APPEND_BYTES` and `FB_APPEND_U16` beyond `FB_CAPACITY` (R185). Safe; it cannot occur
  with the unbounded capacity of this hardware. -/
  | fFbOverflow
  deriving DecidableEq, Repr

/-- The reasons the model gives an instruction no meaning. -/
inductive Refusal where
  /-- The instruction with this mnemonic has no meaning yet; raised by `exec` alone. Safe. -/
  | notModelled (mnemonic : String)
  deriving DecidableEq, Repr

/-- A finite map with natural keys, as a list of entries; the canonical form is `Assoc.wf` (strictly rising keys). -/
abbrev Assoc (α : Type) := List (Nat × α)

/-- The state of the block: one field per state element of 10_state, and the model's own fields at the end. -/
structure State where
  /-- `crc` (R34). -/
  crc : U16
  /-- `fb_buf` (R35). -/
  fbBuf : Bytes
  /-- CSR 0, `CFG_RTU_READ_TIMEOUT_MS` (R37). -/
  cfgRtuReadTimeoutMs : U32
  /-- CSR 1, `CFG_TCP_REQ_TIMEOUT_MS` (R38). -/
  cfgTcpReqTimeoutMs : U32
  /-- `rtu_phase` (R45). -/
  rtuPhase : RtuPhase
  /-- `rtu_host` (R46): the host awaiting the result. -/
  rtuHost : Option Nat
  /-- `rtu_addr` (R46). -/
  rtuAddr : Byte
  /-- `rtu_tx` (R46). -/
  rtuTx : Bytes
  /-- `rtu_rx` (R46). -/
  rtuRx : Bytes
  /-- `rtu_need` (R46). -/
  rtuNeed : Nat
  /-- `rtu_deadline` (R46), in ms. -/
  rtuDeadline : Nat
  /-- `ser_out` (R47). -/
  serOut : Bytes
  /-- `ser_in` (R47). -/
  serIn : Bytes
  /-- `ser_open` (R47). -/
  serOpen : Bool
  /-- `tcp_closed` (R50). -/
  tcpClosed : Bool
  /-- `tcp_tid` (R51). -/
  tcpTid : U16
  /-- `tcp_map` (R52), keyed by transaction id. -/
  tcpMap : Assoc Pending
  /-- `tcp_queue` (R53), head first. -/
  tcpQueue : List QItem
  /-- `tw_state` (R54). -/
  twState : TwState
  /-- `tr_state` (R55). -/
  trState : TrState
  /-- The waiter slots `WAIT[c]` (R56), slot `c` at index `c`; a slot that ended stays in the list in phase `S_DONE`. -/
  waiters : List Waiter
  /-- `tcp_out` (R57). -/
  tcpOut : Bytes
  /-- `tcp_in` (R57). -/
  tcpIn : Bytes
  /-- `tcp_open` (R57). -/
  tcpOpen : Bool
  /-- `tcp_fatal` (R58). -/
  tcpFatal : FatalCause
  /-- `now` (R59), in ms. -/
  now : Nat
  /-- `faults` (R60). -/
  faults : FaultSet
  /-- `result[h]` (R61), keyed by host; a host without an entry has `none`. -/
  results : Assoc Result
  /-- The command port (R110, R112): the command being executed, its host and its operand bundle. -/
  port : Port
  /-- The model's own: the inputs that are already decided, in order (log entry 2). -/
  script : List Event
  /-- The model's own: how many events of the free schedule `Config.freeEvent` have been used (log entry 2). -/
  turn : Nat
  deriving DecidableEq, Repr

/-- The state right after reset (R500): every element at its reset value; the port and the model's own fields at the values
log entries 2 and 3 name. -/
def State.reset : State where
  crc := Config.crcInit
  fbBuf := []
  cfgRtuReadTimeoutMs := Config.rtuReadTimeoutMs
  cfgTcpReqTimeoutMs := Config.tcpReqTimeoutMs
  rtuPhase := .idle
  rtuHost := none
  rtuAddr := 0
  rtuTx := []
  rtuRx := []
  rtuNeed := 0
  rtuDeadline := 0
  serOut := []
  serIn := []
  serOpen := true
  tcpClosed := false
  tcpTid := Config.tidReset
  tcpMap := []
  tcpQueue := []
  twState := .run
  trState := .rdHdr []
  waiters := []
  tcpOut := []
  tcpIn := []
  tcpOpen := true
  tcpFatal := .none
  now := 0
  faults := {}
  results := []
  port := {}
  script := []
  turn := 0

end Sys2Proof.Machine
end

