-- ==== Sys2Proof/Machine/Assoc.lean ====
section
/-! DEFINITION. Finite maps with natural keys in one canonical form: strictly rising keys, at most one entry a key. They
hold the pending-request map (R52) and the result ports (R61), so that equal maps are equal lists. -/

namespace Sys2Proof.Machine

variable {α : Type}

/-- The canonical form: keys strictly rising. -/
def Assoc.wf : Assoc α → Bool
  | [] => true
  | (k, _) :: rest => rest.all (fun e => decide (k < e.1)) && Assoc.wf rest

/-- Lookup. -/
def Assoc.get : Assoc α → Nat → Option α
  | [], _ => none
  | (k, v) :: rest, k' => if k = k' then some v else Assoc.get rest k'

/-- Insertion or replacement at a key. -/
def Assoc.put : Assoc α → Nat → α → Assoc α
  | [], k, v => [(k, v)]
  | (k', v') :: rest, k, v =>
    if k < k' then (k, v) :: (k', v') :: rest
    else if k = k' then (k, v) :: rest
    else (k', v') :: Assoc.put rest k v

/-- Deletion of a key. -/
def Assoc.del (m : Assoc α) (k : Nat) : Assoc α := m.filter (fun e => decide (e.1 ≠ k))

end Sys2Proof.Machine
end

