-- ==== Sys2Proof/Machine/Bytes.lean ====
section
/-! DEFINITION. Byte order, bit packing and word payloads (R12, R81 to R84): the helpers of the wire formats. -/

namespace Sys2Proof.Machine

/-- `be16(w)` (R12): most significant byte first. -/
def be16 (w : U16) : Bytes := [w.extractLsb' 8 8, w.extractLsb' 0 8]

/-- `le16(w)` (R12): least significant byte first. -/
def le16 (w : U16) : Bytes := [w.extractLsb' 0 8, w.extractLsb' 8 8]

/-- `rd16` (R12) of two consecutive bytes, the first the most significant. -/
def rd16 (hi lo : Byte) : U16 := hi ++ lo

/-- The big-endian words of a payload (R83), two bytes each; a last odd byte belongs to no word. -/
def wordsOf : Bytes → List U16
  | hi :: lo :: rest => rd16 hi lo :: wordsOf rest
  | _ => []

/-- The binary32 patterns of a word list (R83, R338): "the low-order word first, high-order word second". -/
def floatsOf : List U16 → List U32
  | low :: high :: rest => (high ++ low) :: floatsOf rest
  | _ => []

/-- The eight bits of a byte, least significant first (R84). -/
def bitsOfByte (b : Byte) : List Bool := (List.range 8).map b.getLsbD

/-- Unpacking (R335): bit index `i` is bit `i % 8` of byte `i / 8`. -/
def unpackBits (data : Bytes) : List Bool := data.flatMap bitsOfByte

/-- `ceil(n / 8)` (R10): the bytes that `n` packed bits take. -/
def packedLen (n : Nat) : Nat := (n + 7) / 8

/-- The byte with index `j` of a packed bit list (R336): bit `i` of the list is OR-ed in at `1 << (i % 8)`. -/
def packByte (bools : List Bool) (j : Nat) : Byte :=
  (List.range 8).foldl (fun acc k => if bools.getD (8 * j + k) false then acc ||| (1 <<< k) else acc) 0

/-- Packing (R336): `ceil(n / 8)` bytes, padding bits 0. -/
def packBits (bools : List Bool) : Bytes := (List.range (packedLen bools.length)).map (packByte bools)

end Sys2Proof.Machine
end

