-- ==== Sys2Proof/Machine/Codec.lean ====
section
/-! DEFINITION. The PDU codec as functions: construction with validation (R200), wire layouts (R121, R224), decoding (R225),
function code (R339). Integer operands are unbounded naturals (R10, R112), narrowed only when every check has passed. -/

namespace Sys2Proof.Machine

/-- The tag of a PDU value (R116). -/
def PDU.variant : PDU → Variant
  | .rbq .. => .rbq
  | .rbs .. => .rbs
  | .wsbq .. => .wsbq
  | .wsbs .. => .wsbs
  | .wmbq .. => .wmbq
  | .wmbs .. => .wmbs
  | .rrq .. => .rrq
  | .rrs .. => .rrs
  | .wsrq .. => .wsrq
  | .wsrs .. => .wsrs
  | .wmrq .. => .wmrq
  | .wmrs .. => .wmrs
  | .exc .. => .exc
  | .raw .. => .raw

/-- `functionCode()` (R339): the error code of an EXC, the first byte of a RAW, the field `fc` of every other variant. -/
def PDU.functionCode : PDU → Byte
  | .rbq fc _ _ | .rbs fc _ | .wsbq fc _ _ | .wsbs fc _ _ | .wmbq fc _ _ _ | .wmbs fc _ _ | .rrq fc _ _ | .rrs fc _
  | .wsrq fc _ _ | .wsrs fc _ _ | .wmrq fc _ _ _ | .wmrs fc _ _ => fc
  | .exc errorCode _ => errorCode
  | .raw b0 _ _ => b0

/-! ### Construction (R200). Each function checks in the order its rule lists and names the first check that fails. -/

/-- `fcOK(fc)` (R200). -/
def fcOk (fc : Nat) : Bool := 1 ≤ fc && fc ≤ 0x7F

/-- Narrowing of a checked operand to a byte field. -/
def toByte (n : Nat) : Byte := BitVec.ofNat 8 n

/-- Narrowing of a checked operand to a u16 field. -/
def toU16 (n : Nat) : U16 := BitVec.ofNat 16 n

/-- R201. -/
def newRbq (n0 n1 n2 : Nat) : Except Detail PDU :=
  if ¬ fcOk n0 then .error .fc
  else if n1 > 0xFFFF ∨ n2 > 0xFFFF then .error .width
  else if n2 < Config.rbCountMin ∨ n2 > Config.rbCountMax then .error .count
  else if n1 + n2 > Config.rbAddrEnd then .error .addr
  else .ok (.rbq (toByte n0) (toU16 n1) (toU16 n2))

/-- R205. -/
def newRbs (n0 : Nat) (data : Bytes) : Except Detail PDU :=
  if ¬ fcOk n0 then .error .fc
  else if data.length > Config.rbsLenMax then .error .len
  else .ok (.rbs (toByte n0) data)

/-- The checks of R209 and R213, which share them; `mk` is the variant. -/
def newSingleBit (mk : Byte → U16 → Bool → PDU) (n0 n1 n2 : Nat) : Except Detail PDU :=
  if ¬ fcOk n0 then .error .fc
  else if n1 > 0xFFFF ∨ n2 > 1 then .error .width
  else .ok (mk (toByte n0) (toU16 n1) (decide (n2 = 1)))

/-- R209. -/
def newWsbq (n0 n1 n2 : Nat) : Except Detail PDU := newSingleBit .wsbq n0 n1 n2

/-- R213. -/
def newWsbs (n0 n1 n2 : Nat) : Except Detail PDU := newSingleBit .wsbs n0 n1 n2

/-- R217. -/
def newWmbq (n0 n1 n2 : Nat) (data : Bytes) : Except Detail PDU :=
  if ¬ fcOk n0 then .error .fc
  else if n1 > 0xFFFF ∨ n2 > 0xFFFF then .error .width
  else if n2 > Config.wmbCountMax then .error .count
  else if data.length ≠ packedLen n2 then .error .len
  else .ok (.wmbq (toByte n0) (toU16 n1) (toU16 n2) data)

/-- The checks of R221 and R281, the echo responses: function code and widths only (D16). -/
def newEcho (mk : Byte → U16 → U16 → PDU) (n0 n1 n2 : Nat) : Except Detail PDU :=
  if ¬ fcOk n0 then .error .fc
  else if n1 > 0xFFFF ∨ n2 > 0xFFFF then .error .width
  else .ok (mk (toByte n0) (toU16 n1) (toU16 n2))

/-- R221. -/
def newWmbs (n0 n1 n2 : Nat) : Except Detail PDU := newEcho .wmbs n0 n1 n2

/-- R261. DESIGN CHOICE (log entry 15): the rule contradicts itself on start 0x80, count 0x7F. Its constraint, its pseudocode
and its "largest count is 125" give `DT_COUNT`; its corner case and a row of 95_test_vectors.md say that it succeeds. The
model follows the pseudocode. -/
def newRrq (n0 n1 n2 : Nat) : Except Detail PDU :=
  if ¬ fcOk n0 then .error .fc
  else if n1 > 0xFFFF ∨ n2 > 0xFFFF then .error .width
  else if n1 > Config.rrAddrLimit then .error .addr
  else if n1 + n2 > Config.rrAddrLimit then .error .addr
  else if 1 + 1 + 2 * n2 > Config.maxPdu then .error .count
  else .ok (.rrq (toByte n0) (toU16 n1) (toU16 n2))

/-- R265. -/
def newRrs (n0 : Nat) (data : Bytes) : Except Detail PDU :=
  if ¬ fcOk n0 then .error .fc
  else if data.length % 2 ≠ 0 then .error .len
  else if data.length > Config.rrsLenMax then .error .len
  else .ok (.rrs (toByte n0) data)

/-- The checks of R269 and R273, which share them; `mk` is the variant. -/
def newSingleRegister (mk : Byte → U16 → Bytes → PDU) (n0 n1 : Nat) (data : Bytes) : Except Detail PDU :=
  if ¬ fcOk n0 then .error .fc
  else if n1 > 0xFFFF then .error .width
  else if data.length ≠ 2 then .error .len
  else .ok (mk (toByte n0) (toU16 n1) data)

/-- R269. -/
def newWsrq (n0 n1 : Nat) (data : Bytes) : Except Detail PDU := newSingleRegister .wsrq n0 n1 data

/-- R273. -/
def newWsrs (n0 n1 : Nat) (data : Bytes) : Except Detail PDU := newSingleRegister .wsrs n0 n1 data

/-- R277. -/
def newWmrq (n0 n1 n2 : Nat) (data : Bytes) : Except Detail PDU :=
  if ¬ fcOk n0 then .error .fc
  else if n1 > 0xFFFF ∨ n2 > 0xFFFF then .error .width
  else if n2 < Config.wmrCountMin ∨ n2 > Config.wmrCountMax then .error .count
  else if data.length ≠ 2 * n2 then .error .len
  else .ok (.wmrq (toByte n0) (toU16 n1) (toU16 n2) data)

/-- R281. -/
def newWmrs (n0 n1 n2 : Nat) : Except Detail PDU := newEcho .wmrs n0 n1 n2

/-- R321. -/
def newExc (n0 n1 : Nat) : Except Detail PDU :=
  if n0 ≤ 0x80 ∨ n0 > 0xFF then .error .errCode
  else if n1 < 1 ∨ n1 > 0xFF then .error .exCode
  else .ok (.exc (toByte n0) (toByte n1))

/-- R325. -/
def newRaw (data : Bytes) : Except Detail PDU :=
  match data with
  | b0 :: b1 :: rest => .ok (.raw b0 b1 rest)
  | _ => .error .len

/-- A PDU value is valid when its own constructor accepts its fields (R19, R200: "there is no way to construct an
out-of-range PDU"). -/
def PDU.valid : PDU → Bool
  | .rbq fc start count => (newRbq fc.toNat start.toNat count.toNat).isOk
  | .rbs fc bits => (newRbs fc.toNat bits).isOk
  | .wsbq fc start value => (newWsbq fc.toNat start.toNat value.toNat).isOk
  | .wsbs fc start value => (newWsbs fc.toNat start.toNat value.toNat).isOk
  | .wmbq fc start count values => (newWmbq fc.toNat start.toNat count.toNat values).isOk
  | .wmbs fc start count => (newWmbs fc.toNat start.toNat count.toNat).isOk
  | .rrq fc start count => (newRrq fc.toNat start.toNat count.toNat).isOk
  | .rrs fc values => (newRrs fc.toNat values).isOk
  | .wsrq fc address value => (newWsrq fc.toNat address.toNat value).isOk
  | .wsrs fc address value => (newWsrs fc.toNat address.toNat value).isOk
  | .wmrq fc address count values => (newWmrq fc.toNat address.toNat count.toNat values).isOk
  | .wmrs fc address count => (newWmrs fc.toNat address.toNat count.toNat).isOk
  | .exc errorCode exceptionCode => (newExc errorCode.toNat exceptionCode.toNat).isOk
  | .raw b0 b1 rest => (newRaw (b0 :: b1 :: rest)).isOk

/-! ### Wire layouts (R121, R224) -/

/-- The single-bit value word (R126). -/
def coilWord (value : Bool) : U16 := if value then Config.coilOn else Config.coilOff

/-- The byte-count byte of a payload (R127); a valid PDU's payload is shorter than 256 bytes. -/
def countByte (payload : Bytes) : Byte := BitVec.ofNat 8 payload.length

/-- The wire bytes of a PDU value: the layout table of R121. -/
def PDU.marshal : PDU → Bytes
  | .rbq fc start count => [fc] ++ be16 start ++ be16 count
  | .rbs fc bits => [fc, countByte bits] ++ bits
  | .wsbq fc start value => [fc] ++ be16 start ++ be16 (coilWord value)
  | .wsbs fc start value => [fc] ++ be16 start ++ be16 (coilWord value)
  | .wmbq fc start count values => [fc] ++ be16 start ++ be16 count ++ [countByte values] ++ values
  | .wmbs fc start count => [fc] ++ be16 start ++ be16 count
  | .rrq fc start count => [fc] ++ be16 start ++ be16 count
  | .rrs fc values => [fc, countByte values] ++ values
  | .wsrq fc address value => [fc] ++ be16 address ++ value
  | .wsrs fc address value => [fc] ++ be16 address ++ value
  | .wmrq fc address count values => [fc] ++ be16 address ++ be16 count ++ [countByte values] ++ values
  | .wmrs fc address count => [fc] ++ be16 address ++ be16 count
  | .exc errorCode exceptionCode => [errorCode, exceptionCode]
  | .raw b0 b1 rest => b0 :: b1 :: rest

/-! ### Decoding (R225): total length, then byte count, then the constructor's checks (R463) -/

/-- The five-byte shape `[fc] ‖ u16 ‖ u16` (R203, R223, R263, R283), handed to a constructor. -/
def unmarshalTwoWords (mk : Nat → Nat → Nat → Except Detail PDU) (data : Bytes) : Except Detail PDU :=
  match data with
  | [fc, ah, al, bh, bl] => mk fc.toNat (rd16 ah al).toNat (rd16 bh bl).toNat
  | _ => .error .frameLen

/-- The shape `[fc, N] ‖ payload` (R207, R267), handed to a constructor. -/
def unmarshalCounted (mk : Nat → Bytes → Except Detail PDU) (data : Bytes) : Except Detail PDU :=
  match data with
  | fc :: n :: payload => if payload.length ≠ n.toNat then .error .byteCount else mk fc.toNat payload
  | _ => .error .frameLen

/-- The shape `[fc] ‖ u16 ‖ coil word` (R211, R215), handed to a constructor; the value word is checked first. -/
def unmarshalSingleBit (mk : Nat → Nat → Nat → Except Detail PDU) (data : Bytes) : Except Detail PDU :=
  match data with
  | [fc, ah, al, vh, vl] =>
    if rd16 vh vl = Config.coilOn then mk fc.toNat (rd16 ah al).toNat 1
    else if rd16 vh vl = Config.coilOff then mk fc.toNat (rd16 ah al).toNat 0
    else .error .coilValue
  | _ => .error .frameLen

/-- The shape `[fc] ‖ u16 ‖ u16 ‖ [N] ‖ payload` (R219, R279), handed to a constructor. -/
def unmarshalMultiple (mk : Nat → Nat → Nat → Bytes → Except Detail PDU) (data : Bytes) : Except Detail PDU :=
  match data with
  | fc :: ah :: al :: ch :: cl :: n :: payload =>
    if payload.length ≠ n.toNat then .error .byteCount
    else mk fc.toNat (rd16 ah al).toNat (rd16 ch cl).toNat payload
  | _ => .error .frameLen

/-- The shape `[fc] ‖ u16 ‖ 2 bytes` (R271, R275), handed to a constructor. -/
def unmarshalSingleRegister (mk : Nat → Nat → Bytes → Except Detail PDU) (data : Bytes) : Except Detail PDU :=
  match data with
  | [fc, ah, al, v0, v1] => mk fc.toNat (rd16 ah al).toNat [v0, v1]
  | _ => .error .frameLen

/-- The two-byte exception shape (R323). -/
def unmarshalExcBytes (data : Bytes) : Except Detail PDU :=
  match data with
  | [errorCode, exceptionCode] => newExc errorCode.toNat exceptionCode.toNat
  | _ => .error .frameLen

/-- `UNMARSHAL.<V>` as a function of the bytes; `Except.error` names the detail of `ERR_DECODE` (R225). -/
def unmarshalAs (v : Variant) (data : Bytes) : Except Detail PDU :=
  match v with
  | .rbq => unmarshalTwoWords newRbq data
  | .rbs => unmarshalCounted newRbs data
  | .wsbq => unmarshalSingleBit newWsbq data
  | .wsbs => unmarshalSingleBit newWsbs data
  | .wmbq => unmarshalMultiple newWmbq data
  | .wmbs => unmarshalTwoWords newWmbs data
  | .rrq => unmarshalTwoWords newRrq data
  | .rrs => unmarshalCounted newRrs data
  | .wsrq => unmarshalSingleRegister newWsrq data
  | .wsrs => unmarshalSingleRegister newWsrs data
  | .wmrq => unmarshalMultiple newWmrq data
  | .wmrs => unmarshalTwoWords newWmrs data
  | .exc => unmarshalExcBytes data
  | .raw => newRaw data

/-- The response variant of a request variant (R331); `none` for a tag outside its domain. -/
def responseVariant : Variant → Option Variant
  | .rbq => some .rbs
  | .wsbq => some .wsbs
  | .wmbq => some .wmbs
  | .rrq => some .rrs
  | .wsrq => some .wsrs
  | .wmrq => some .wmrs
  | .rbs | .wsbs | .wmbs | .rrs | .wsrs | .wmrs | .exc | .raw => none

/-- `DECODE_RESPONSE` as a function (R331): the exception test compares the response's byte 0, which is its function code
(R339), with the request's function code OR 0x80. -/
def decodeResponsePdu (request response : PDU) : Except Detail PDU :=
  match responseVariant request.variant with
  | none => .error .noResponseShape
  | some v =>
    if response.functionCode = request.functionCode ||| 0x80 then unmarshalAs .exc response.marshal
    else unmarshalAs v response.marshal

end Sys2Proof.Machine
end

