-- ==== Sys2Proof/Machine/Codes.lean ====
section
/-! DEFINITION. The numbers of the named codes: status (R461), detail (R462), fatal cause (R465), RTU phase (R45). -/

namespace Sys2Proof.Machine

/-- `status` as a number (R461). -/
def Status.code : Status → Byte
  | .ok => 0x00
  | .errValidation => 0x01
  | .errDecode => 0x02
  | .errIoWrite => 0x03
  | .errIoRead => 0x04
  | .errBadCrc => 0x05
  | .errAddrMismatch => 0x06
  | .errUnsupportedFc => 0x07
  | .errTimeout => 0x08
  | .errClosed => 0x09
  | .errIllegalOp => 0x0A
  | .errIo => 0x0B

/-- `detail` as a number (R462). -/
def Detail.code : Detail → Byte
  | .none => 0x00
  | .fc => 0x01
  | .width => 0x02
  | .count => 0x03
  | .addr => 0x04
  | .len => 0x05
  | .errCode => 0x06
  | .exCode => 0x07
  | .frameLen => 0x08
  | .byteCount => 0x09
  | .coilValue => 0x0A
  | .oddWords => 0x0B
  | .noResponseShape => 0x0C
  | .encoding => 0x10
  | .operand => 0x11
  | .csr => 0x12
  | .short => 0x20
  | .ioErr => 0x21
  | .deadline => 0x22
  | .closed => 0x23

/-- `tcp_fatal` as a number (R465), 3 bits wide (R58). -/
def FatalCause.code : FatalCause → BitVec 3
  | .none => 0
  | .protocolId => 1
  | .unknownTid => 2
  | .unitMismatch => 3
  | .io => 4
  | .length => 5

/-- `rtu_phase` as a number (R45), 3 bits wide (R39). -/
def RtuPhase.code : RtuPhase → BitVec 3
  | .idle => 0
  | .send => 1
  | .hdr => 2
  | .len => 3
  | .body => 4
  | .closed => 5

end Sys2Proof.Machine
end

