-- ==== Sys2Proof/Machine/Crc.lean ====
section
/-! DEFINITION. The CRC-16/MODBUS function (R164) and the frames that use it (R130, R131). -/

namespace Sys2Proof.Machine

/-- One of the eight shifts of `crcByte` (R164). -/
def crcShift (c : U16) : U16 :=
  if c.getLsbD 0 then (c >>> 1) ^^^ Config.crcPoly else c >>> 1

/-- `crcByte(c, b)` (R164). -/
def crcByte (c : U16) (b : Byte) : U16 :=
  crcShift (crcShift (crcShift (crcShift (crcShift (crcShift (crcShift (crcShift (c ^^^ b.setWidth 16))))))))

/-- `crcUpdate(c, s)` (R164). -/
def crcUpdate (c : U16) (s : Bytes) : U16 := s.foldl crcByte c

/-- `crc16(s)` (R164). -/
def crc16 (s : Bytes) : U16 := crcUpdate Config.crcInit s

/-- `rtuFrame(a, p)` (R130): address, PDU, CRC low byte first (R82). -/
def rtuFrame (a : Byte) (p : Bytes) : Bytes := (a :: p) ++ le16 (crc16 (a :: p))

/-- `mbapFrame(t, u, p)` (R131), defined for `len(p) ≤ 0xFFFE`. -/
def mbapFrame (t : U16) (u : Byte) (p : Bytes) : Bytes :=
  be16 t ++ be16 Config.mbapProtocolId ++ be16 (BitVec.ofNat 16 (1 + p.length)) ++ [u] ++ p

/-- The longest PDU an MBAP frame can carry (R131, R413). -/
def mbapMaxPdu : Nat := 0xFFFE

end Sys2Proof.Machine
end

