-- ==== Sys2Proof/Machine/Ops.lean ====
section
/-! DEFINITION. The shared operations of the machine: results (R14, R61), model faults (R15, R470), draws (R17), stream
writes (R85, R88), and the shared operations of the two transports (R361, R410, R411, R420). The block takes no exception
and returns from none (R464, R466, R475): an error is a result, written by `State.reply`. -/

namespace Sys2Proof.Machine

/-- What a meaning answers. -/
abbrev Answer := Host.Outcome State Fault Refusal

/-! ### Results -/

/-- `Ok()` with no further field (R14). -/
def Result.done : Result := { status := .ok }

/-- `Err(STATUS, detail)` (R14). -/
def Result.err (status : Status) (detail : Detail) : Result := { status, detail := some detail }

/-- `Ok(pdu = p)`. -/
def Result.okPdu (p : PDU) : Result := { status := .ok, pdu := some (some p) }

/-- `Ok(value = v)`. -/
def Result.okValue (v : U32) : Result := { status := .ok, value := some v }

/-- `Ok(data = b)`. -/
def Result.okData (b : Bytes) : Result := { status := .ok, data := some b }

/-- The result of a codec operation: its PDU, or the failing check's detail under the operation's error status (R200, R225). -/
def codecResult (failure : Status) : Except Detail PDU → Result
  | .ok p => Result.okPdu p
  | .error d => Result.err failure d

/-- Writing the result port of host `h` (R61): how every command ends, with success or with an error (R14, R464). -/
def State.reply (h : Nat) (r : Result) (s : State) : State := { s with results := s.results.put h r }

/-- The result of the command being executed, to the host that issued it. -/
def State.answer (r : Result) (s : State) : State := s.reply s.port.host r

/-! ### Model faults -/

/-- A fault's bit set in the sticky set (R43, R470). -/
def FaultSet.add : FaultSet → Fault → FaultSet
  | f, .fRtuBusy => { f with rtuBusy := true }
  | f, .fTidReuse => { f with tidReuse := true }
  | f, .fMbapOverflow => { f with mbapOverflow := true }
  | f, .fFbOverflow => { f with fbOverflow := true }

/-- The fault in the set with the lowest bit number, if the set is not empty (R43). -/
def FaultSet.first (f : FaultSet) : Option Fault :=
  if f.rtuBusy then some .fRtuBusy
  else if f.tidReuse then some .fTidReuse
  else if f.mbapOverflow then some .fMbapOverflow
  else if f.fbOverflow then some .fFbOverflow
  else none

/-- `fault F` (R15): the fault is recorded; the command or step that raised it writes no result (R470). That no agent
steps afterwards is `runEvent`. -/
def State.raise (f : Fault) (s : State) : State := { s with faults := s.faults.add f }

/-! ### Capacities and draws -/

/-- Whether `n` elements exceed a capacity; no number exceeds an unbounded one (R8). -/
def exceeds (capacity : Option Nat) (n : Nat) : Bool :=
  match capacity with
  | none => false
  | some c => decide (n > c)

/-- `draw x ∈ S` (R17) for the set of `x` and `others`: every natural `d` picks a member and every member is picked by
some `d`. -/
def drawFrom {α : Type} (d : Nat) (x : α) (others : List α) : α := (x :: others).getD (d % (others.length + 1)) x

/-! ### The byte streams -/

/-- One write of a whole string to a byte stream (R85, R88): the bytes taken and the outcome, from the environment's draws.
A closed stream takes no byte and reports an I/O error; an I/O error drawn together with a short count is the error reported
(R362). -/
def streamWrite (isOpen : Bool) (k : Nat) (ioerr : Bool) (frame : Bytes) : Bytes × WriteOutcome :=
  if isOpen then
    (frame.take k, if ioerr then .ioErr else if k < frame.length then .short else .full)
  else ([], .ioErr)

/-- The result of a write that did not succeed (R362, R412). -/
def writeError : WriteOutcome → Option Result
  | .full => none
  | .short => some (Result.err .errIoWrite .short)
  | .ioErr => some (Result.err .errIoWrite .ioErr)

/-! ### The serial framer -/

/-- A serial request is in progress: neither idle nor closed (R45). -/
def RtuPhase.busy : RtuPhase → Bool
  | .send | .hdr | .len | .body => true
  | .idle | .closed => false

/-- The framer is reading a response (R366, R368, R369). -/
def RtuPhase.reading : RtuPhase → Bool
  | .hdr | .len | .body => true
  | .idle | .send | .closed => false

/-- `rtuFinish(r)` (R361): the result goes to `rtu_host` and the framer returns to `R_IDLE`; `ser_in` is left alone. -/
def rtuFinish (r : Result) (s : State) : State :=
  match s.rtuHost with
  | some h => { s.reply h r with rtuPhase := .idle }
  | none => { s with rtuPhase := .idle }

/-! ### The stream transport -/

/-- A waiter's completion signal written (R56). -/
def Waiter.signalled (r : Result) (w : Waiter) : Waiter := { w with signal := some r }

/-- A waiter in another phase (R56). -/
def Waiter.inPhase (p : WaitPhase) (w : Waiter) : Waiter := { w with phase := p }

/-- One waiter slot changed. -/
def State.updateWaiter (c : Nat) (f : Waiter → Waiter) (s : State) : State := { s with waiters := s.waiters.modify c f }

/-- `complete(tid, r)` (R410): the one-shot completion. -/
def complete (tid : Nat) (r : Result) (s : State) : State :=
  match s.tcpMap.get tid with
  | some record => { s with tcpMap := s.tcpMap.del tid }.updateWaiter record.waiter (Waiter.signalled r)
  | none => s

/-- `Err(ERR_CLOSED, DT_CLOSED, value = tcp_fatal)` (R402, R411, R425; R461). -/
def closedError (cause : FatalCause) : Result :=
  { Result.err .errClosed .closed with value := some (cause.code.setWidth 32) }

/-- Completion of every entry of a list of map entries (the loop of R411). -/
def completeAll (entries : Assoc Pending) (r : Result) (s : State) : State :=
  entries.foldl (fun t e => complete e.1 r t) s

/-- `closeSweep()` (R411). -/
def closeSweep (s : State) : State :=
  let stopped := { s with tcpClosed := true, tcpOpen := false, twState := .stop, trState := .rdStop }
  { completeAll s.tcpMap (closedError s.tcpFatal) stopped with tcpQueue := [] }

/-- The first connection-fatal cause is kept (R44, R420). -/
def FatalCause.orElse : FatalCause → FatalCause → FatalCause
  | .none, cause => cause
  | first, _ => first

/-- `fatal(cause)` (R420). -/
def fatal (cause : FatalCause) (s : State) : State := closeSweep { s with tcpFatal := s.tcpFatal.orElse cause }

end Sys2Proof.Machine
end

