-- ==== Sys2Proof/Machine/Operands.lean ====
section
/-! DEFINITION. Operand forms (R112, R118, R224): how a command reads the operand bundle at the command port. -/

namespace Sys2Proof.Machine

/-- The operand bundle of the command being executed. -/
abbrev State.ops (s : State) : Operands := s.port.ops

/-- The integer operands as the unbounded naturals of R10. -/
def Operands.i0 (o : Operands) : Nat := o.n0.toNat
/-- See `Operands.i0`. -/
def Operands.i1 (o : Operands) : Nat := o.n1.toNat
/-- See `Operands.i0`. -/
def Operands.i2 (o : Operands) : Nat := o.n2.toNat

/-- A bundle holds PDU values only when both its PDU operands are valid (R19: PDU values are valid by construction). -/
def Operands.valid (o : Operands) : Bool := o.pdu.valid && o.pdu2.valid

/-- `NEW.<V>` ends with the constructed PDU or the failing check's detail (R200). -/
def answerNew (r : Except Detail PDU) (s : State) : Answer := .next (s.answer (codecResult .errValidation r))

/-- A decoding command ends with the decoded PDU or the failing check's detail (R225). -/
def answerDecode (r : Except Detail PDU) (s : State) : Answer := .next (s.answer (codecResult .errDecode r))

/-- `MARSHAL.<V>` (R224): the wire bytes of the operand PDU, which must carry the command's tag (R118). -/
def answerMarshal (v : Variant) (s : State) : Answer :=
  .next (s.answer (if s.ops.pdu.variant = v then Result.okData s.ops.pdu.marshal else Result.err .errIllegalOp .operand))

/-- `REINTERPRET.<V>` (R330): the operand PDU, of any tag, marshalled and unmarshalled as the target variant. -/
def answerReinterpret (v : Variant) (s : State) : Answer := answerDecode (unmarshalAs v s.ops.pdu.marshal) s

end Sys2Proof.Machine
end

