-- ==== Sys2Proof/Machine/CrcCommands.lean ====
section
/-! DEFINITION. The CRC-16 engine commands (40_crc). -/

namespace Sys2Proof.Machine

/-- R160. -/
def execCrcInit (s : State) : Answer := .next ({ s with crc := Config.crcInit }.answer Result.done)

/-- R161. -/
def execCrcWrite (s : State) : Answer := .next ({ s with crc := crcUpdate s.crc s.ops.data }.answer Result.done)

/-- R162. -/
def execCrcRead (s : State) : Answer := .next (s.answer (Result.okValue (s.crc.setWidth 32)))

/-- R163. -/
def execCrcChecksum (s : State) : Answer := .next (s.answer (Result.okValue ((crc16 s.ops.data).setWidth 32)))

end Sys2Proof.Machine
end

