-- ==== Sys2Proof/Machine/Flags.lean ====
section
/-! DEFINITION. Status. The block has no arithmetic flags and no condition codes (R62); its status is what the control and
status registers show (R36 to R44). -/

namespace Sys2Proof.Machine

/-- CSR 2, `STAT_RTU` (R39). -/
def statRtu (s : State) : U32 := s.rtuPhase.code.setWidth 32

/-- CSR 3, `STAT_TCP` (R40): bit 0 closed, bit 1 writer running, bit 2 reader running. -/
def statTcp (s : State) : U32 :=
  (BitVec.ofBool (decide (s.trState ≠ .rdStop)) ++ BitVec.ofBool (decide (s.twState = .run)) ++
    BitVec.ofBool s.tcpClosed : BitVec 3).setWidth 32

/-- CSR 4, `STAT_TCP_NEXT_TID` (R41). -/
def statTcpNextTid (s : State) : U32 := s.tcpTid.setWidth 32

/-- CSR 5, `STAT_TCP_PENDING` (R42). -/
def statTcpPending (s : State) : U32 := BitVec.ofNat 32 s.tcpMap.length

/-- CSR 6, `STAT_FAULT` (R43): bits 0 to 3 in the order of R470. -/
def statFault (s : State) : U32 :=
  (BitVec.ofBool s.faults.fbOverflow ++ BitVec.ofBool s.faults.mbapOverflow ++ BitVec.ofBool s.faults.tidReuse ++
    BitVec.ofBool s.faults.rtuBusy : BitVec 4).setWidth 32

/-- CSR 7, `STAT_TCP_FATAL` (R44). -/
def statTcpFatal (s : State) : U32 := s.tcpFatal.code.setWidth 32

/-- The value of a CSR (R36 to R44); `none` for a reserved number. -/
def csrValue (csr : Byte) (s : State) : Option U32 :=
  match csr.toNat with
  | 0 => some s.cfgRtuReadTimeoutMs
  | 1 => some s.cfgTcpReqTimeoutMs
  | 2 => some (statRtu s)
  | 3 => some (statTcp s)
  | 4 => some (statTcpNextTid s)
  | 5 => some (statTcpPending s)
  | 6 => some (statFault s)
  | 7 => some (statTcpFatal s)
  | _ => none

/-- A CSR written (R346); `none` for a read-only or reserved number. -/
def csrUpdate (csr : Byte) (v : U32) (s : State) : Option State :=
  match csr.toNat with
  | 0 => some { s with cfgRtuReadTimeoutMs := v }
  | 1 => some { s with cfgTcpReqTimeoutMs := v }
  | _ => none

end Sys2Proof.Machine
end

