-- ==== Sys2Proof/Machine/CsrAccess.lean ====
section
/-! DEFINITION. CSR access (44_pdu_generic R345, R346). -/

namespace Sys2Proof.Machine

/-- R345: a reserved CSR number is an error; reading has no side effect. -/
def execCsrRead (csr : Byte) (s : State) : Answer :=
  match csrValue csr s with
  | some v => .next (s.answer (Result.okValue v))
  | none => .next (s.answer (Result.err .errIllegalOp .csr))

/-- R346: only CSRs 0 and 1 are writable. -/
def execCsrWrite (csr : Byte) (s : State) : Answer :=
  match csrUpdate csr s.ops.n0 s with
  | some t => .next (t.answer Result.done)
  | none => .next (s.answer (Result.err .errIllegalOp .csr))

end Sys2Proof.Machine
end

