-- ==== Sys2Proof/Machine/FrameBuilder.lean ====
section
/-! DEFINITION. The Frame Builder commands (41_frame_builder). -/

namespace Sys2Proof.Machine

/-- R180. -/
def execFbReset (s : State) : Answer := .next ({ s with fbBuf := [] }.answer Result.done)

/-- R181. -/
def execFbAppendBytes (s : State) : Answer :=
  if exceeds Config.fbCapacity (s.fbBuf.length + s.ops.data.length) then .next (s.raise .fFbOverflow)
  else .next ({ s with fbBuf := s.fbBuf ++ s.ops.data }.answer Result.done)

/-- The loop of R182, one word a round; an overflow ends it with the words before it appended. -/
def appendWords : List U16 → State → State
  | [], s => s.answer Result.done
  | w :: ws, s =>
    if exceeds Config.fbCapacity (s.fbBuf.length + 2) then s.raise .fFbOverflow
    else appendWords ws { s with fbBuf := s.fbBuf ++ be16 w }

/-- R182. -/
def execFbAppendU16 (s : State) : Answer := .next (appendWords s.ops.words s)

/-- R183. -/
def execFbFinalizeRaw (s : State) : Answer := .next (s.answer (Result.okData s.fbBuf))

/-- R184. -/
def execFbFinalizeCrc (s : State) : Answer := .next (s.answer (Result.okData (s.fbBuf ++ le16 (crc16 s.fbBuf))))

end Sys2Proof.Machine
end

