-- ==== Sys2Proof/Machine/Interpret.lean ====
section
/-! DEFINITION. The generic codec commands and the bit and register interpretation (44_pdu_generic). -/

namespace Sys2Proof.Machine

/-- R331. -/
def execDecodeResponse (s : State) : Answer := answerDecode (decodeResponsePdu s.ops.pdu s.ops.pdu2) s

/-- R339. -/
def execPduFc (s : State) : Answer := .next (s.answer (Result.okValue (s.ops.pdu.functionCode.setWidth 32)))

/-- R335. -/
def execBytesToBools (s : State) : Answer :=
  .next (s.answer { Result.done with bools := some (unpackBits s.ops.data) })

/-- R336. -/
def execBoolsToBytes (s : State) : Answer := .next (s.answer (Result.okData (packBits s.ops.bools)))

/-- R337. -/
def execRegsToU16 (s : State) : Answer :=
  if s.ops.data.length % 2 ≠ 0 then .next (s.answer (Result.err .errDecode .oddWords))
  else .next (s.answer { Result.done with words := some (wordsOf s.ops.data) })

/-- R338. -/
def execRegsToF32 (s : State) : Answer :=
  if s.ops.data.length % 4 ≠ 0 then .next (s.answer (Result.err .errDecode .oddWords))
  else .next (s.answer { Result.done with floats := some (floatsOf (wordsOf s.ops.data)) })

end Sys2Proof.Machine
end

