-- ==== Sys2Proof/Machine/MarshalCommands.lean ====
section
/-! DEFINITION. The marshal commands `MARSHAL.<V>` (42, 43, 44): R224 and one rule a variant. -/

namespace Sys2Proof.Machine

/-- R202. -/
def execMarshalRbq (s : State) : Answer := answerMarshal .rbq s

/-- R206. -/
def execMarshalRbs (s : State) : Answer := answerMarshal .rbs s

/-- R210. -/
def execMarshalWsbq (s : State) : Answer := answerMarshal .wsbq s

/-- R214. -/
def execMarshalWsbs (s : State) : Answer := answerMarshal .wsbs s

/-- R218. -/
def execMarshalWmbq (s : State) : Answer := answerMarshal .wmbq s

/-- R222. -/
def execMarshalWmbs (s : State) : Answer := answerMarshal .wmbs s

/-- R262. -/
def execMarshalRrq (s : State) : Answer := answerMarshal .rrq s

/-- R266. -/
def execMarshalRrs (s : State) : Answer := answerMarshal .rrs s

/-- R270. -/
def execMarshalWsrq (s : State) : Answer := answerMarshal .wsrq s

/-- R274. -/
def execMarshalWsrs (s : State) : Answer := answerMarshal .wsrs s

/-- R278. -/
def execMarshalWmrq (s : State) : Answer := answerMarshal .wmrq s

/-- R282. -/
def execMarshalWmrs (s : State) : Answer := answerMarshal .wmrs s

/-- R322. -/
def execMarshalExc (s : State) : Answer := answerMarshal .exc s

/-- R326. -/
def execMarshalRaw (s : State) : Answer := answerMarshal .raw s

end Sys2Proof.Machine
end

