-- ==== Sys2Proof/Machine/NewCommands.lean ====
section
/-! DEFINITION. The constructors `NEW.<V>` (42, 43, 44): R200 and one rule a variant. -/

namespace Sys2Proof.Machine

/-- R201. -/
def execNewRbq (s : State) : Answer := answerNew (newRbq s.ops.i0 s.ops.i1 s.ops.i2) s

/-- R205. -/
def execNewRbs (s : State) : Answer := answerNew (newRbs s.ops.i0 s.ops.data) s

/-- R209. -/
def execNewWsbq (s : State) : Answer := answerNew (newWsbq s.ops.i0 s.ops.i1 s.ops.i2) s

/-- R213. -/
def execNewWsbs (s : State) : Answer := answerNew (newWsbs s.ops.i0 s.ops.i1 s.ops.i2) s

/-- R217. -/
def execNewWmbq (s : State) : Answer := answerNew (newWmbq s.ops.i0 s.ops.i1 s.ops.i2 s.ops.data) s

/-- R221. -/
def execNewWmbs (s : State) : Answer := answerNew (newWmbs s.ops.i0 s.ops.i1 s.ops.i2) s

/-- R261. -/
def execNewRrq (s : State) : Answer := answerNew (newRrq s.ops.i0 s.ops.i1 s.ops.i2) s

/-- R265. -/
def execNewRrs (s : State) : Answer := answerNew (newRrs s.ops.i0 s.ops.data) s

/-- R269. -/
def execNewWsrq (s : State) : Answer := answerNew (newWsrq s.ops.i0 s.ops.i1 s.ops.data) s

/-- R273. -/
def execNewWsrs (s : State) : Answer := answerNew (newWsrs s.ops.i0 s.ops.i1 s.ops.data) s

/-- R277. -/
def execNewWmrq (s : State) : Answer := answerNew (newWmrq s.ops.i0 s.ops.i1 s.ops.i2 s.ops.data) s

/-- R281. -/
def execNewWmrs (s : State) : Answer := answerNew (newWmrs s.ops.i0 s.ops.i1 s.ops.i2) s

/-- R321. -/
def execNewExc (s : State) : Answer := answerNew (newExc s.ops.i0 s.ops.i1) s

/-- R325. -/
def execNewRaw (s : State) : Answer := answerNew (newRaw s.ops.data) s

end Sys2Proof.Machine
end

