-- ==== Sys2Proof/Machine/ReinterpretCommands.lean ====
section
/-! DEFINITION. The reinterpretation commands `REINTERPRET.<V>` (44_pdu_generic R330). -/

namespace Sys2Proof.Machine

/-- R330 with target RBQ. -/
def execReinterpretRbq (s : State) : Answer := answerReinterpret .rbq s

/-- R330 with target RBS. -/
def execReinterpretRbs (s : State) : Answer := answerReinterpret .rbs s

/-- R330 with target WSBQ. -/
def execReinterpretWsbq (s : State) : Answer := answerReinterpret .wsbq s

/-- R330 with target WSBS. -/
def execReinterpretWsbs (s : State) : Answer := answerReinterpret .wsbs s

/-- R330 with target WMBQ. -/
def execReinterpretWmbq (s : State) : Answer := answerReinterpret .wmbq s

/-- R330 with target WMBS. -/
def execReinterpretWmbs (s : State) : Answer := answerReinterpret .wmbs s

/-- R330 with target RRQ. -/
def execReinterpretRrq (s : State) : Answer := answerReinterpret .rrq s

/-- R330 with target RRS. -/
def execReinterpretRrs (s : State) : Answer := answerReinterpret .rrs s

/-- R330 with target WSRQ. -/
def execReinterpretWsrq (s : State) : Answer := answerReinterpret .wsrq s

/-- R330 with target WSRS. -/
def execReinterpretWsrs (s : State) : Answer := answerReinterpret .wsrs s

/-- R330 with target WMRQ. -/
def execReinterpretWmrq (s : State) : Answer := answerReinterpret .wmrq s

/-- R330 with target WMRS. -/
def execReinterpretWmrs (s : State) : Answer := answerReinterpret .wmrs s

/-- R330 with target EXC. -/
def execReinterpretExc (s : State) : Answer := answerReinterpret .exc s

/-- R330 with target RAW. -/
def execReinterpretRaw (s : State) : Answer := answerReinterpret .raw s

end Sys2Proof.Machine
end

