-- ==== Sys2Proof/Machine/RtuCommands.lean ====
section
/-! DEFINITION. The serial transport's commands (45_rtu R360, R375): the issuing steps. -/

namespace Sys2Proof.Machine

/-- R360: a closed stream is an error, a request in progress is the fault `F_RTU_BUSY`, and otherwise the frame is handed
to the `RTU` agent, which writes the result later. -/
def execRtuWriteRequest (slave : Byte) (s : State) : Answer :=
  if s.rtuPhase = .closed then .next (s.answer (Result.err .errClosed .closed))
  else if s.rtuPhase ≠ .idle then .next (s.raise .fRtuBusy)
  else
    .next { s with
      rtuHost := some s.port.host
      rtuAddr := slave
      rtuTx := rtuFrame slave s.ops.pdu.marshal
      rtuRx := []
      rtuNeed := 0
      rtuPhase := .send }

/-- The result of a first `close()` (R375, R425; D34): the environment draws it. -/
def closeResult (draw : Nat) : Result := drawFrom draw Result.done [Result.err .errIo .ioErr]

/-- The result of a later `close()` (R375, R425; D34): the environment draws it. `closed` is the `ERR_CLOSED` of the
transport, which R461 writes differently for the two. -/
def closeAgainResult (closed : Result) (draw : Nat) : Result :=
  drawFrom draw Result.done [closed, Result.err .errIo .ioErr]

/-- R375. -/
def execRtuClose (s : State) : Answer :=
  if s.rtuPhase = .closed then .next (s.answer (closeAgainResult (Result.err .errClosed .closed) s.port.draw))
  else if s.rtuPhase ≠ .idle then .next (s.raise .fRtuBusy)
  else .next ({ s with serOpen := false, rtuPhase := .closed }.answer (closeResult s.port.draw))

end Sys2Proof.Machine
end

