-- ==== Sys2Proof/Machine/RtuResponses.lean ====
section
/-! DEFINITION. The response classes of the serial framer (R132, R367): what the framer does with the function-code byte of
a response header once the address has been checked. -/

namespace Sys2Proof.Machine

/-- The framer goes on reading in phase `p` until `need` bytes have been received. -/
def awaitResponse (p : RtuPhase) (need : Nat) (s : State) : State := { s with rtuNeed := need, rtuPhase := p }

/-- The action of a read response (R367): one more byte, the payload length. -/
def readResponse (s : State) : Answer := .next (awaitResponse .len 3 s)

/-- The action of a write response (R367): six more bytes. -/
def writeResponse (s : State) : Answer := .next (awaitResponse .body 8 s)

/-- An exception response is five bytes long, whatever operation it answers (R367). -/
def execRtuRespException (_fc : Byte) (s : State) : Answer := .next (awaitResponse .body 5 s)

/-- R132, row 0x01. -/
def execRtuRespReadFc01 (s : State) : Answer := readResponse s
/-- R132, row 0x02. -/
def execRtuRespReadFc02 (s : State) : Answer := readResponse s
/-- R132, row 0x03. -/
def execRtuRespReadFc03 (s : State) : Answer := readResponse s
/-- R132, row 0x04. -/
def execRtuRespReadFc04 (s : State) : Answer := readResponse s
/-- R132, row 0x05. -/
def execRtuRespWriteFc05 (s : State) : Answer := writeResponse s
/-- R132, row 0x06. -/
def execRtuRespWriteFc06 (s : State) : Answer := writeResponse s
/-- R132, row 0x0F. -/
def execRtuRespWriteFc0F (s : State) : Answer := writeResponse s
/-- R132, row 0x10. -/
def execRtuRespWriteFc10 (s : State) : Answer := writeResponse s

/-- `Err(ERR_UNSUPPORTED_FC, DT_NONE, value = fc)` ends the request (R367). -/
def execRtuRespUnsupported (fc : Byte) (s : State) : Answer :=
  .next (rtuFinish { Result.err .errUnsupportedFc .none with value := some (fc.setWidth 32) } s)

end Sys2Proof.Machine
end

