-- ==== Sys2Proof/Machine/TcpCommands.lean ====
section
/-! DEFINITION. The stream transport's commands (46_tcp R400, R425): the issuing steps. -/

namespace Sys2Proof.Machine

/-- The waiter slot that R400 creates. -/
def newWaiter (unit : Byte) (s : State) : Waiter where
  host := s.port.host
  unit := unit
  req := s.ops.pdu
  tid := 0
  t0 := s.now
  tmo := s.cfgTcpReqTimeoutMs
  signal := none
  phase := .check

/-- R400: a fresh slot, the next index; its own steps finish the command. -/
def execTcpWriteRequest (unit : Byte) (s : State) : Answer := .next { s with waiters := s.waiters ++ [newWaiter unit s] }

/-- R425. The `ERR_CLOSED` that a second close may draw carries `value = tcp_fatal`, as the table of R461 says of it (DEDUCED,
log entry 13: R425 writes that result without naming a value). -/
def execTcpClose (s : State) : Answer :=
  if s.tcpClosed then .next (s.answer (closeAgainResult (closedError s.tcpFatal) s.port.draw))
  else .next ((closeSweep s).answer (closeResult s.port.draw))

end Sys2Proof.Machine
end

