-- ==== Sys2Proof/Machine/UnmarshalCommands.lean ====
section
/-! DEFINITION. The unmarshal commands `UNMARSHAL.<V>` (42, 43, 44): R225 and one rule a variant. -/

namespace Sys2Proof.Machine

/-- R203. -/
def execUnmarshalRbq (s : State) : Answer := answerDecode (unmarshalAs .rbq s.ops.data) s

/-- R207. -/
def execUnmarshalRbs (s : State) : Answer := answerDecode (unmarshalAs .rbs s.ops.data) s

/-- R211. -/
def execUnmarshalWsbq (s : State) : Answer := answerDecode (unmarshalAs .wsbq s.ops.data) s

/-- R215. -/
def execUnmarshalWsbs (s : State) : Answer := answerDecode (unmarshalAs .wsbs s.ops.data) s

/-- R219. -/
def execUnmarshalWmbq (s : State) : Answer := answerDecode (unmarshalAs .wmbq s.ops.data) s

/-- R223. -/
def execUnmarshalWmbs (s : State) : Answer := answerDecode (unmarshalAs .wmbs s.ops.data) s

/-- R263. -/
def execUnmarshalRrq (s : State) : Answer := answerDecode (unmarshalAs .rrq s.ops.data) s

/-- R267. -/
def execUnmarshalRrs (s : State) : Answer := answerDecode (unmarshalAs .rrs s.ops.data) s

/-- R271. -/
def execUnmarshalWsrq (s : State) : Answer := answerDecode (unmarshalAs .wsrq s.ops.data) s

/-- R275. -/
def execUnmarshalWsrs (s : State) : Answer := answerDecode (unmarshalAs .wsrs s.ops.data) s

/-- R279. -/
def execUnmarshalWmrq (s : State) : Answer := answerDecode (unmarshalAs .wmrq s.ops.data) s

/-- R283. -/
def execUnmarshalWmrs (s : State) : Answer := answerDecode (unmarshalAs .wmrs s.ops.data) s

/-- R323. -/
def execUnmarshalExc (s : State) : Answer := answerDecode (unmarshalAs .exc s.ops.data) s

/-- R327. -/
def execUnmarshalRaw (s : State) : Answer := answerDecode (unmarshalAs .raw s.ops.data) s

end Sys2Proof.Machine
end

