-- ==== Sys2Proof/Machine/Dispatch.lean ====
section
/-! DEFINITION. The dispatch: one arm per constructor of Instr. -/

namespace Sys2Proof.Machine

def exec (i : Instr) (s : State) : Host.Outcome State Fault Refusal :=
  match i with
  | .crcInit => Sys2Proof.Machine.execCrcInit s
  | .crcWrite => Sys2Proof.Machine.execCrcWrite s
  | .crcRead => Sys2Proof.Machine.execCrcRead s
  | .crcChecksum => Sys2Proof.Machine.execCrcChecksum s
  | .fbReset => Sys2Proof.Machine.execFbReset s
  | .fbAppendBytes => Sys2Proof.Machine.execFbAppendBytes s
  | .fbAppendU16 => Sys2Proof.Machine.execFbAppendU16 s
  | .fbFinalizeRaw => Sys2Proof.Machine.execFbFinalizeRaw s
  | .fbFinalizeCrc => Sys2Proof.Machine.execFbFinalizeCrc s
  | .newRbq => Sys2Proof.Machine.execNewRbq s
  | .newRbs => Sys2Proof.Machine.execNewRbs s
  | .newWsbq => Sys2Proof.Machine.execNewWsbq s
  | .newWsbs => Sys2Proof.Machine.execNewWsbs s
  | .newWmbq => Sys2Proof.Machine.execNewWmbq s
  | .newWmbs => Sys2Proof.Machine.execNewWmbs s
  | .newRrq => Sys2Proof.Machine.execNewRrq s
  | .newRrs => Sys2Proof.Machine.execNewRrs s
  | .newWsrq => Sys2Proof.Machine.execNewWsrq s
  | .newWsrs => Sys2Proof.Machine.execNewWsrs s
  | .newWmrq => Sys2Proof.Machine.execNewWmrq s
  | .newWmrs => Sys2Proof.Machine.execNewWmrs s
  | .newExc => Sys2Proof.Machine.execNewExc s
  | .newRaw => Sys2Proof.Machine.execNewRaw s
  | .marshalRbq => Sys2Proof.Machine.execMarshalRbq s
  | .marshalRbs => Sys2Proof.Machine.execMarshalRbs s
  | .marshalWsbq => Sys2Proof.Machine.execMarshalWsbq s
  | .marshalWsbs => Sys2Proof.Machine.execMarshalWsbs s
  | .marshalWmbq => Sys2Proof.Machine.execMarshalWmbq s
  | .marshalWmbs => Sys2Proof.Machine.execMarshalWmbs s
  | .marshalRrq => Sys2Proof.Machine.execMarshalRrq s
  | .marshalRrs => Sys2Proof.Machine.execMarshalRrs s
  | .marshalWsrq => Sys2Proof.Machine.execMarshalWsrq s
  | .marshalWsrs => Sys2Proof.Machine.execMarshalWsrs s
  | .marshalWmrq => Sys2Proof.Machine.execMarshalWmrq s
  | .marshalWmrs => Sys2Proof.Machine.execMarshalWmrs s
  | .marshalExc => Sys2Proof.Machine.execMarshalExc s
  | .marshalRaw => Sys2Proof.Machine.execMarshalRaw s
  | .unmarshalRbq => Sys2Proof.Machine.execUnmarshalRbq s
  | .unmarshalRbs => Sys2Proof.Machine.execUnmarshalRbs s
  | .unmarshalWsbq => Sys2Proof.Machine.execUnmarshalWsbq s
  | .unmarshalWsbs => Sys2Proof.Machine.execUnmarshalWsbs s
  | .unmarshalWmbq => Sys2Proof.Machine.execUnmarshalWmbq s
  | .unmarshalWmbs => Sys2Proof.Machine.execUnmarshalWmbs s
  | .unmarshalRrq => Sys2Proof.Machine.execUnmarshalRrq s
  | .unmarshalRrs => Sys2Proof.Machine.execUnmarshalRrs s
  | .unmarshalWsrq => Sys2Proof.Machine.execUnmarshalWsrq s
  | .unmarshalWsrs => Sys2Proof.Machine.execUnmarshalWsrs s
  | .unmarshalWmrq => Sys2Proof.Machine.execUnmarshalWmrq s
  | .unmarshalWmrs => Sys2Proof.Machine.execUnmarshalWmrs s
  | .unmarshalExc => Sys2Proof.Machine.execUnmarshalExc s
  | .unmarshalRaw => Sys2Proof.Machine.execUnmarshalRaw s
  | .decodeResponse => Sys2Proof.Machine.execDecodeResponse s
  | .bytesToBools => Sys2Proof.Machine.execBytesToBools s
  | .boolsToBytes => Sys2Proof.Machine.execBoolsToBytes s
  | .regsToU16 => Sys2Proof.Machine.execRegsToU16 s
  | .regsToF32 => Sys2Proof.Machine.execRegsToF32 s
  | .pduFc => Sys2Proof.Machine.execPduFc s
  | .rtuWriteRequest slave => Sys2Proof.Machine.execRtuWriteRequest slave s
  | .rtuClose => Sys2Proof.Machine.execRtuClose s
  | .tcpWriteRequest unit => Sys2Proof.Machine.execTcpWriteRequest unit s
  | .tcpClose => Sys2Proof.Machine.execTcpClose s
  | .csrRead csr => Sys2Proof.Machine.execCsrRead csr s
  | .csrWrite csr => Sys2Proof.Machine.execCsrWrite csr s
  | .reinterpretRbq => Sys2Proof.Machine.execReinterpretRbq s
  | .reinterpretRbs => Sys2Proof.Machine.execReinterpretRbs s
  | .reinterpretWsbq => Sys2Proof.Machine.execReinterpretWsbq s
  | .reinterpretWsbs => Sys2Proof.Machine.execReinterpretWsbs s
  | .reinterpretWmbq => Sys2Proof.Machine.execReinterpretWmbq s
  | .reinterpretWmbs => Sys2Proof.Machine.execReinterpretWmbs s
  | .reinterpretRrq => Sys2Proof.Machine.execReinterpretRrq s
  | .reinterpretRrs => Sys2Proof.Machine.execReinterpretRrs s
  | .reinterpretWsrq => Sys2Proof.Machine.execReinterpretWsrq s
  | .reinterpretWsrs => Sys2Proof.Machine.execReinterpretWsrs s
  | .reinterpretWmrq => Sys2Proof.Machine.execReinterpretWmrq s
  | .reinterpretWmrs => Sys2Proof.Machine.execReinterpretWmrs s
  | .reinterpretExc => Sys2Proof.Machine.execReinterpretExc s
  | .reinterpretRaw => Sys2Proof.Machine.execReinterpretRaw s
  | .rtuRespException fc => Sys2Proof.Machine.execRtuRespException fc s
  | .rtuRespReadFc01 => Sys2Proof.Machine.execRtuRespReadFc01 s
  | .rtuRespReadFc02 => Sys2Proof.Machine.execRtuRespReadFc02 s
  | .rtuRespReadFc03 => Sys2Proof.Machine.execRtuRespReadFc03 s
  | .rtuRespReadFc04 => Sys2Proof.Machine.execRtuRespReadFc04 s
  | .rtuRespWriteFc05 => Sys2Proof.Machine.execRtuRespWriteFc05 s
  | .rtuRespWriteFc06 => Sys2Proof.Machine.execRtuRespWriteFc06 s
  | .rtuRespWriteFc0F => Sys2Proof.Machine.execRtuRespWriteFc0F s
  | .rtuRespWriteFc10 => Sys2Proof.Machine.execRtuRespWriteFc10 s
  | .rtuRespUnsupported fc => Sys2Proof.Machine.execRtuRespUnsupported fc s

end Sys2Proof.Machine
end

