-- ==== Sys2Proof/Machine/RtuAgent.lean ====
section
/-! DEFINITION. The steps of the `RTU` agent (45_rtu R362 to R371). -/

namespace Sys2Proof.Machine

/-- `SerWrite(rtu_tx)` (R85): the bytes the stream took are appended to `ser_out`. -/
def serWrite (k : Nat) (ioerr : Bool) (s : State) : State :=
  { s with serOut := s.serOut ++ (streamWrite s.serOpen k ioerr s.rtuTx).1 }

/-- The send step after a full write (R362): a broadcast ends at once with no PDU and no error, any other request arms the
read deadline and reads the header. -/
def rtuSent (s : State) : State :=
  if s.rtuAddr = 0 then rtuFinish { Result.done with pdu := some none } s
  else
    { s with
      rtuDeadline := s.now + s.cfgRtuReadTimeoutMs.toNat
      rtuNeed := 2
      rtuPhase := .hdr }

/-- The send step (R362). -/
def rtuSend (k : Nat) (ioerr : Bool) (s : State) : State :=
  match writeError (streamWrite s.serOpen k ioerr s.rtuTx).2 with
  | some e => rtuFinish e (serWrite k ioerr s)
  | none => rtuSent (serWrite k ioerr s)

/-- `Err(ERR_ADDR_MISMATCH, DT_NONE, value = rtu_rx[0])` (R367). -/
def addrMismatch (a : Byte) : Result := { Result.err .errAddrMismatch .none with value := some (a.setWidth 32) }

/-- The completion action of `R_HDR` (R367): the address check, then the response class of the function-code byte is
executed. A header shorter than two bytes does not occur; the model then waits (log entry 8). -/
def rtuHeaderDone (s : State) : Answer :=
  match s.rtuRx with
  | a :: fc :: _ => if a ≠ s.rtuAddr then .next (rtuFinish (addrMismatch a) s) else exec (decodeRespFc fc) s
  | _ => .next s

/-- The completion action of `R_LEN` (R367): `N + 2` bytes more. -/
def rtuLengthDone (s : State) : State :=
  match s.rtuRx with
  | _ :: _ :: n :: _ => { s with rtuNeed := 3 + n.toNat + 2, rtuPhase := .body }
  | _ => s

/-- `Err(ERR_BAD_CRC, DT_NONE, got, want, frame)` (R370). -/
def badCrc (got want : U16) (frame : Bytes) : Result :=
  { Result.err .errBadCrc .none with got := some got, want := some want, frame := some frame }

/-- The CRC check and decode (R370): the trailing two bytes are the received CRC, low byte first; a good frame is stripped
of its address and CRC and wrapped as a RawPDU. A frame of fewer than five bytes does not occur; the model then waits (log
entry 8). -/
def rtuBodyDone (s : State) : State :=
  let body := s.rtuRx.take (s.rtuRx.length - 2)
  match s.rtuRx.drop (s.rtuRx.length - 2) with
  | [lo, hi] =>
    if rd16 hi lo ≠ crc16 body then rtuFinish (badCrc (rd16 hi lo) (crc16 body) s.rtuRx) s
    else
      match newRaw (body.drop 1) with
      | .ok p => rtuFinish (Result.okPdu p) s
      | .error _ => s
  | _ => s

/-- The completion action of the framer's phase (R367). -/
def rtuPhaseDone (s : State) : Answer :=
  match s.rtuPhase with
  | .hdr => rtuHeaderDone s
  | .len => .next (rtuLengthDone s)
  | .body => .next (rtuBodyDone s)
  | .idle | .send | .closed => .next s

/-- `SerReadByte()` appended to the response (R86, R366). -/
def rtuTake (b : Byte) (rest : Bytes) (s : State) : State := { s with serIn := rest, rtuRx := s.rtuRx ++ [b] }

/-- The read step (R366): one byte, and the completion action in the same step when it completes the phase. -/
def rtuRead (s : State) : Answer :=
  match s.serIn with
  | [] => .next s
  | b :: rest =>
    if (rtuTake b rest s).rtuRx.length = s.rtuNeed then rtuPhaseDone (rtuTake b rest s) else .next (rtuTake b rest s)

/-- A read error signalled by the serial device (R368). -/
def rtuReadError (s : State) : State := rtuFinish (Result.err .errIoRead .ioErr) s

/-- Deadline expiry (R369). -/
def rtuExpire (s : State) : State := rtuFinish (Result.err .errIoRead .deadline) s

end Sys2Proof.Machine
end

