-- ==== Sys2Proof/Machine/TcpAgents.lean ====
section
/-! DEFINITION. The steps of the waiters, the writer loop and the reader loop (46_tcp R402 to R418). -/

namespace Sys2Proof.Machine

/-! ### The waiter `WAIT[c]` -/

/-- A waiter ends: its host receives `r` and its phase is `S_DONE` (R56). -/
def waiterEnd (c : Nat) (w : Waiter) (r : Result) (s : State) : State :=
  (s.reply w.host r).updateWaiter c (Waiter.inPhase .done)

/-- The closed check (R402). -/
def waiterCheck (c : Nat) (w : Waiter) (s : State) : State :=
  if s.tcpClosed then waiterEnd c w (closedError s.tcpFatal) s else s.updateWaiter c (Waiter.inPhase .alloc)

/-- Transaction id allocation (R404): the counter's value, then the counter plus one, wrapping at 0xFFFF. -/
def waiterAlloc (c : Nat) (s : State) : State :=
  State.updateWaiter c (fun w => { w with tid := s.tcpTid, phase := .reg }) { s with tcpTid := s.tcpTid + 1 }

/-- Registration and hand-off (R405): an id still registered is the fault `F_TID_REUSE` (R430). -/
def waiterRegister (c : Nat) (w : Waiter) (s : State) : State :=
  if (s.tcpMap.get w.tid.toNat).isSome then s.raise .fTidReuse
  else
    State.updateWaiter c (Waiter.inPhase .wait)
      { s with
        tcpMap := s.tcpMap.put w.tid.toNat { unit := w.unit, req := w.req, waiter := c }
        tcpQueue := s.tcpQueue ++ [{ tid := w.tid, unit := w.unit, req := w.req }] }

/-- The writer queue has room for one more item (R53): always, with the unbounded queue of this hardware. -/
def queueHasRoom (s : State) : Bool := !exceeds Config.queueDepth (s.tcpQueue.length + 1)

/-- The step of `WAIT[c]` that its phase names is enabled: completion needs the signal (R406), registration room in the
queue. -/
def waiterCanRun (c : Nat) (s : State) : Bool :=
  match s.waiters[c]? with
  | some w =>
    match w.phase with
    | .check | .alloc => true
    | .reg => queueHasRoom s
    | .wait => w.signal.isSome
    | .done => false
  | none => false

/-- The step of `WAIT[c]` that its phase names (R402, R404, R405, R406). -/
def waiterRun (c : Nat) (s : State) : State :=
  match s.waiters[c]? with
  | some w =>
    match w.phase, w.signal with
    | .check, _ => waiterCheck c w s
    | .alloc, _ => waiterAlloc c s
    | .reg, _ => waiterRegister c w s
    | .wait, some r => waiterEnd c w r s
    | .wait, none | .done, _ => s
  | none => s

/-- The timeout guard (R407): waiting, and `now ≥ t0 + tmo`. -/
def waiterTimeUp (c : Nat) (s : State) : Bool :=
  match s.waiters[c]? with
  | some w => decide (w.phase = .wait ∧ s.now ≥ w.t0 + w.tmo.toNat)
  | none => false

/-- The record of a timed-out request removed, if it is still the one registered under its id (R407). -/
def dropRecord (c : Nat) (w : Waiter) (s : State) : State :=
  match s.tcpMap.get w.tid.toNat with
  | some record => if record.waiter = c then { s with tcpMap := s.tcpMap.del w.tid.toNat } else s
  | none => s

/-- Timeout (R407). -/
def waiterTimeout (c : Nat) (s : State) : State :=
  match s.waiters[c]? with
  | some w => waiterEnd c w (Result.err .errTimeout .none) (dropRecord c w s)
  | none => s

/-! ### The writer loop `TW` -/

/-- `TcpWrite(frame)` (R88): the bytes the stream took are appended to `tcp_out`. -/
def tcpWrite (k : Nat) (ioerr : Bool) (frame : Bytes) (s : State) : State :=
  { s with tcpOut := s.tcpOut ++ (streamWrite s.tcpOpen k ioerr frame).1 }

/-- The write of one dequeued item (R412): a PDU too long for the length field is the fault `F_MBAP_OVERFLOW` (R413); a
partial or failed write is that request's error and affects no other. -/
def writeItem (k : Nat) (ioerr : Bool) (q : QItem) (s : State) : State :=
  if q.req.marshal.length > mbapMaxPdu then s.raise .fMbapOverflow
  else
    let frame := mbapFrame q.tid q.unit q.req.marshal
    match writeError (streamWrite s.tcpOpen k ioerr frame).2 with
    | some e => complete q.tid.toNat e (tcpWrite k ioerr frame s)
    | none => tcpWrite k ioerr frame s

/-- The writer step (R412). -/
def writerStep (k : Nat) (ioerr : Bool) (s : State) : State :=
  match s.tcpQueue with
  | q :: rest => writeItem k ioerr q { s with tcpQueue := rest }
  | [] => s

/-! ### The reader loop `TR` -/

/-- `Err(ERR_DECODE, DT_LEN)` (R415, R416): a RawPDU needs two bytes. -/
def shortPdu : Result := Result.err .errDecode .len

/-- The checks of a header whose fields are `tid`, `proto`, `length` and `unit`, in the order of R415. -/
def readerFields (tid proto length : U16) (unit : Byte) (s : State) : State :=
  if proto ≠ Config.mbapProtocolId then fatal .protocolId s
  else
    match s.tcpMap.get tid.toNat with
    | none => fatal .unknownTid s
    | some record =>
      if unit ≠ record.unit then fatal .unitMismatch s
      else if length.toNat = 0 then fatal .length s
      else if length.toNat - 1 = 0 then { complete tid.toNat shortPdu s with trState := .rdHdr [] }
      else { s with trState := .rdBody tid unit (length.toNat - 1) [] }

/-- The header check (R415) of a complete header. -/
def readerHeader (buf : Bytes) (s : State) : State :=
  match buf with
  | t1 :: t0 :: p1 :: p0 :: l1 :: l0 :: u :: _ => readerFields (rd16 t1 t0) (rd16 p1 p0) (rd16 l1 l0) u s
  | _ => { s with trState := .rdHdr buf }

/-- The result of a complete body (R416). -/
def bodyResult (need : Nat) (buf : Bytes) : Result :=
  if need < 2 then shortPdu
  else
    match newRaw buf with
    | .ok p => Result.okPdu p
    | .error _ => shortPdu

/-- The body byte step (R416), `buf` with the new byte. -/
def readerBody (tid : U16) (unit : Byte) (need : Nat) (buf : Bytes) (s : State) : State :=
  if buf.length < need then { s with trState := .rdBody tid unit need buf }
  else { complete tid.toNat (bodyResult need buf) s with trState := .rdHdr [] }

/-- The reader step on byte `b` (R414, R416). -/
def readerByte (b : Byte) (s : State) : State :=
  match s.trState with
  | .rdHdr buf =>
    if (buf ++ [b]).length < 7 then { s with trState := .rdHdr (buf ++ [b]) } else readerHeader (buf ++ [b]) s
  | .rdBody tid unit need buf => readerBody tid unit need (buf ++ [b]) s
  | .rdStop => s

/-- The reader step: `TcpReadByte()` (R89), then the byte. -/
def readerStep (s : State) : State :=
  match s.tcpIn with
  | b :: rest => readerByte b { s with tcpIn := rest }
  | [] => s

/-- The reader sees an I/O error or the end of the stream (R418). -/
def readerIoError (s : State) : State := fatal .io s

end Sys2Proof.Machine
end

