-- ==== Sys2Proof/Machine/Agents.lean ====
section
/-! DEFINITION. The interleaving (R18, R30, R95): when each agent's step is enabled, what it does, and which event comes
next. -/

namespace Sys2Proof.Machine

/-- `HOST[h]` waits for the result of a command of its own that is not finished. -/
def hostWaiting (h : Nat) (s : State) : Bool :=
  (s.rtuPhase.busy && decide (s.rtuHost = some h)) ||
    s.waiters.any (fun w => decide (w.host = h) && decide (w.phase ≠ .done))

/-- `HOST[h]` may issue a command: its previous one has ended and its result is consumed (R61). DESIGN CHOICE (log entry 16):
a host whose command a reset discarded has no result to consume and may issue at once after the reset. R503 says that it must
not wait for that result; 93_implementation_defined I12 calls such a host stuck. -/
def hostReady (h : Nat) (s : State) : Bool := (s.results.get h).isNone && !hostWaiting h s

/-- The guard of each event. A command's PDU operands are PDU values, hence valid (R19). -/
def eventEnabled (e : Event) (s : State) : Bool :=
  match e with
  | .issue h _ ops _ => hostReady h s && ops.valid
  | .consume h => (s.results.get h).isSome
  | .rtuSend _ _ => decide (s.rtuPhase = .send)
  | .rtuRead => s.rtuPhase.reading && !s.serIn.isEmpty && decide (s.now < s.rtuDeadline)
  | .rtuReadError => s.rtuPhase.reading
  | .rtuExpire => s.rtuPhase.reading && decide (s.now ≥ s.rtuDeadline)
  | .twWrite _ _ => decide (s.twState = .run) && !s.tcpQueue.isEmpty
  | .trRead => decide (s.trState ≠ .rdStop) && s.tcpOpen && !s.tcpIn.isEmpty
  | .trIoError => s.tcpOpen && decide (s.trState ≠ .rdStop)
  | .waiterRun c => waiterCanRun c s
  | .waiterTimeout c => waiterTimeUp c s
  | .tick => true
  | .serArrive _ => true
  | .tcpArrive _ => s.tcpOpen
  | .reset => true

/-- A command reaches the block (R110): the port holds its host, its operand bundle and the environment's draw. -/
def State.present (h : Nat) (ops : Operands) (draw : Nat) (s : State) : State := { s with port := ⟨h, ops, draw⟩ }

/-- A command word is decoded and executed; an illegal one ends with `Err(ERR_ILLEGAL_OP, DT_ENCODING)` and changes no
other state (R117). -/
def issueWord (w : U32) (s : State) : Answer :=
  match decodeCommand w with
  | .ok i => exec i s
  | .error _ => .next (s.answer (Result.err .errIllegalOp .encoding))

/-- Reset (R500): every state element at its reset value; the inputs that have not happened yet are not undone. -/
def State.afterReset (s : State) : State := { State.reset with script := s.script, turn := s.turn }

/-- The effect of an enabled event. -/
def fireEvent (e : Event) (s : State) : Answer :=
  match e with
  | .issue h w ops draw => issueWord w (s.present h ops draw)
  | .consume h => .next { s with results := s.results.del h }
  | .rtuSend k ioerr => .next (rtuSend k ioerr s)
  | .rtuRead => rtuRead s
  | .rtuReadError => .next (rtuReadError s)
  | .rtuExpire => .next (rtuExpire s)
  | .twWrite k ioerr => .next (writerStep k ioerr s)
  | .trRead => .next (readerStep s)
  | .trIoError => .next (readerIoError s)
  | .waiterRun c => .next (waiterRun c s)
  | .waiterTimeout c => .next (waiterTimeout c s)
  | .tick => .next { s with now := s.now + 1 }
  | .serArrive b => .next { s with serIn := s.serIn ++ [b] }
  | .tcpArrive b => .next { s with tcpIn := s.tcpIn ++ [b] }
  | .reset => .next s.afterReset

/-- One event. Once a fault is recorded nothing steps but a reset (R60, R470, R502); an event whose guard is false does not
occur (R18), which leaves the state as it is. -/
def runEvent (e : Event) (s : State) : Answer :=
  match e, s.faults.first with
  | .reset, _ => .next s.afterReset
  | _, some f => .fault f
  | _, none => if eventEnabled e s then fireEvent e s else .next s

/-- The next event: the first input already decided, else the free schedule's next one (log entry 2). -/
def nextEvent (s : State) : Event :=
  match s.script with
  | e :: _ => e
  | [] => Config.freeEvent s.turn

/-- The state with that event taken out. -/
def afterEvent (s : State) : State :=
  match s.script with
  | _ :: rest => { s with script := rest }
  | [] => { s with turn := s.turn + 1 }

/-- A host that has no entry in any port, slot or request: one more than the largest in use. -/
def freshHost (s : State) : Nat :=
  1 + ((s.results.map Prod.fst ++ s.waiters.map Waiter.host ++ s.rtuHost.toList).foldl max 0)

/-- A command word placed as the next event, issued by a host that may issue, with the zero operand bundle. -/
def placeCommand (w : U32) (s : State) : State :=
  { s with script := .issue (freshHost s) w {} 0 :: s.script, faults := {} }

/-- A function-code byte placed as the next byte the serial framer reads: the framer is reading a response header whose
address byte has arrived and is the right one, and the deadline has not passed. -/
def placeRespFc (fc : Byte) (s : State) : State :=
  { s with
    script := .rtuRead :: s.script
    faults := {}
    rtuPhase := .hdr
    rtuHost := s.rtuHost.or (some (freshHost s))
    rtuRx := [s.rtuAddr]
    rtuNeed := 2
    rtuDeadline := s.now + 1
    serIn := fc :: s.serIn }

end Sys2Proof.Machine
end

