-- ==== Sys2Proof/Machine/Step.lean ====
section
/-! DEFINITION. One step of the block: the next event of the interleaving. -/

namespace Sys2Proof.Machine

/-- One step (R18, R30, R95): the next event happens to the state it is taken from. -/
def step (s : State) : Host.Outcome State Fault Refusal := runEvent (nextEvent s) (afterEvent s)

/-- The state in which the very next step runs the instruction whose bits are `w`: 8 bits are a response's function-code
byte, anything else a command word (log entry 4). -/
def State.withFetchWord (s : State) (nbits w : Nat) : State :=
  if nbits = 8 then placeRespFc (BitVec.ofNat 8 w) s else placeCommand (BitVec.ofNat 32 w) s

end Sys2Proof.Machine
end

