-- ==== Sys2Proof/Machine/Pseudo.lean ====
section
/-! DEFINITION. The pseudo-commands of R141: each an abbreviation of the sequence of commands a host issues. -/

namespace Sys2Proof.Machine

/-- The pseudo-commands of R141. -/
inductive Pseudo where
  | checksumInc (parts : List Bytes)
  | rtuFrame (a : Byte) (p : PDU)
  | mbapFrame (t : U16) (u : Byte) (p : PDU)
  deriving DecidableEq, Repr

/-- The length word `1 + len` of `MBAP_FRAME` for a PDU of `n` bytes (R141). DESIGN CHOICE (log entry 12): beyond 0xFFFE it is
no u16 and the spec gives no result (91_not_in_source N14), so the word is a free value there. -/
def mbapLength (n : Nat) : U16 := if n ≤ 0xFFFE then BitVec.ofNat 16 (1 + n) else Config.freeMbapLength n

/-- The expansions of R141. `%b.data`, the result of the first command, is the marshalled PDU (R224; DEDUCED, log entry 12). -/
def Pseudo.expand : Pseudo → List (Instr × Operands)
  | .checksumInc parts =>
    (Instr.crcInit, {}) :: parts.map (fun b => (Instr.crcWrite, { data := b })) ++ [(Instr.crcRead, {})]
  | .rtuFrame a p =>
    [(Instr.marshalOf p.variant, { pdu := p }), (Instr.fbReset, {}), (Instr.fbAppendBytes, { data := [a] }),
      (Instr.fbAppendBytes, { data := p.marshal }), (Instr.fbFinalizeCrc, {})]
  | .mbapFrame t u p =>
    [(Instr.marshalOf p.variant, { pdu := p }), (Instr.fbReset, {}),
      (Instr.fbAppendU16, { words := [t, 0, mbapLength p.marshal.length] }),
      (Instr.fbAppendBytes, { data := [u] }), (Instr.fbAppendBytes, { data := p.marshal }), (Instr.fbFinalizeRaw, {})]

/-- One host's commands in order, each issued after the result of the one before it has been consumed (R61, R101), with no
step of another agent between them. -/
def runSequence (h : Nat) : List (Instr × Operands) → State → Answer
  | [], s => .next s
  | (i, ops) :: rest, s =>
    match exec i ({ s with results := s.results.del h }.present h ops 0) with
    | .next t => runSequence h rest t
    | .fault f => .fault f
    | .refused r => .refused r

end Sys2Proof.Machine
end

