-- ==== Sys2Proof/Safety.lean ====
section
/-! DEFINITION. What counts as a safe state of the block: the invariant that every step keeps, part by part. -/

namespace Sys2Proof.Machine

/-- No fault is recorded: the agents of the block still step (R60). -/
def Healthy (s : State) : Prop := s.faults = {}

/-- The finite maps are in canonical form, and the keys of the pending map are transaction ids (R52, R63). -/
structure MapsOk (s : State) : Prop where
  pendingCanonical : s.tcpMap.wf = true
  resultsCanonical : s.results.wf = true
  pendingKeys : ∀ e ∈ s.tcpMap, e.1 < 65536

/-- A map entry belongs to the waiter it names: that waiter waits under this id, unsignalled, for this request (R52, R56,
R410: "signal is none here, because the entry was present"). -/
def EntryOk (s : State) (k : Nat) (record : Pending) : Prop :=
  ∃ w, s.waiters[record.waiter]? = some w ∧ w.phase = .wait ∧ w.signal = none ∧ w.tid.toNat = k ∧
    w.unit = record.unit ∧ w.req = record.req

/-- Every pending entry belongs to its waiter, and a waiter that is not registered yet has no signal (R56, R100). -/
structure PendingOk (s : State) : Prop where
  entries : ∀ e ∈ s.tcpMap, EntryOk s e.1 e.2
  unsignalled : ∀ w ∈ s.waiters, w.phase = .check ∨ w.phase = .alloc ∨ w.phase = .reg → w.signal = none

/-- The serial framer's working registers fit its phase (R45, R46, R366, R367). -/
structure SerialOk (s : State) : Prop where
  closed : s.rtuPhase = .closed ↔ s.serOpen = false
  host : s.rtuPhase.busy = true → s.rtuHost.isSome = true
  send : s.rtuPhase = .send → s.rtuRx = []
  hdr : s.rtuPhase = .hdr → s.rtuNeed = 2 ∧ s.rtuRx.length < 2
  len : s.rtuPhase = .len → s.rtuNeed = 3 ∧ s.rtuRx.length = 2 ∧ s.rtuRx.head? = some s.rtuAddr
  body : s.rtuPhase = .body →
    5 ≤ s.rtuNeed ∧ 2 ≤ s.rtuRx.length ∧ s.rtuRx.length < s.rtuNeed ∧ s.rtuRx.head? = some s.rtuAddr

/-- The reader's buffer is shorter than what it waits for (R55, R416). -/
def readerFits : TrState → Prop
  | .rdHdr buf => buf.length < 7
  | .rdBody _ _ need buf => buf.length < need ∧ need ≤ 0xFFFE
  | .rdStop => True

/-- The stream transport's status state is consistent (R50, R54, R55, R57, R58): it is closed exactly when the connection
is, both loops run exactly while it is open, and only a closed transport has a fatal cause. -/
structure StreamOk (s : State) : Prop where
  connection : s.tcpOpen = !s.tcpClosed
  writer : s.twState = .stop ↔ s.tcpClosed = true
  reader : s.trState = .rdStop ↔ s.tcpClosed = true
  cause : s.tcpFatal ≠ .none → s.tcpClosed = true
  buffer : readerFits s.trState

/-- The PDU a result carries is a valid PDU value (R14, R19). -/
def resultValid (r : Result) : Prop := ∀ p, r.pdu = some (some p) → p.valid = true

/-- Every PDU value the block holds is valid: "never cause a partial/corrupt value to exist" (R14, R19, R464). -/
structure PdusOk (s : State) : Prop where
  operands : s.port.ops.valid = true
  results : ∀ e ∈ s.results, resultValid e.2
  pending : ∀ e ∈ s.tcpMap, e.2.req.valid = true
  queue : ∀ q ∈ s.tcpQueue, q.req.valid = true
  waiters : ∀ w ∈ s.waiters, w.req.valid = true
  signals : ∀ w ∈ s.waiters, ∀ r, w.signal = some r → resultValid r

/-- Result ports are written once per command (R61): a host that waits for a result has an empty port, and no host waits
for two. -/
structure PortsOk (s : State) : Prop where
  empty : ∀ h, hostWaiting h s = true → s.results.get h = none
  oneSlot : ∀ (c d : Nat) (v w : Waiter), s.waiters[c]? = some v → s.waiters[d]? = some w → v.phase ≠ .done → w.phase ≠ .done →
    v.host = w.host → c = d
  oneTransport : ∀ w ∈ s.waiters, w.phase ≠ .done → s.rtuPhase.busy = true → s.rtuHost ≠ some w.host

/-- The invariant of the block. -/
structure State.Inv (s : State) : Prop where
  maps : MapsOk s
  pending : PendingOk s
  serial : SerialOk s
  stream : StreamOk s
  pdus : PdusOk s
  ports : PortsOk s

/-! ### Terms the statements use -/

/-- A function code of a non-exception variant (R123, R200): 1 to 0x7F. -/
def FcInRange (n : Nat) : Prop := 1 ≤ n ∧ n ≤ 0x7F

/-- Command `i` ends with `Ok(pdu = p)` and changes nothing but the issuing host's result port. -/
def YieldsPdu (i : Instr) (s : State) (p : PDU) : Prop := exec i s = .next (s.answer (Result.okPdu p))

/-- Command `i` ends with `Err(status, d)` and changes nothing but the issuing host's result port. -/
def FailsWith (i : Instr) (s : State) (status : Status) (d : Detail) : Prop :=
  exec i s = .next (s.answer (Result.err status d))

/-- Decoding command `i` ends as constructor `j` does on the operands of `u`, a validation error turned into a decode error
with the same detail (R225). -/
def DecodesAs (i : Instr) (s : State) (j : Instr) (u : State) : Prop :=
  (∀ p, YieldsPdu j u p → YieldsPdu i s p) ∧ (∀ d, FailsWith j u .errValidation d → FailsWith i s .errDecode d)

/-- The operation codes of the table of R114. -/
def legalOps : List Nat :=
  [0x01, 0x02, 0x03, 0x04, 0x10, 0x11, 0x12, 0x13, 0x14] ++ (List.range 14).map (0x20 + ·) ++
    (List.range 14).map (0x30 + ·) ++ (List.range 14).map (0x40 + ·) ++ [0x50, 0x51, 0x52, 0x53, 0x54, 0x55] ++
    [0x60, 0x61, 0x70, 0x71, 0x80, 0x81] ++ (List.range 14).map (0x90 + ·)

/-- The operation codes whose `arg` column in R114 is not 0. -/
def argOps : List Nat := [0x60, 0x70, 0x80, 0x81]

/-- A legal command word (R117, negated): its `op` is in the table, `rsv` is 0, and `arg` is 0 unless the command takes it. -/
def LegalWord (w : U32) : Prop :=
  w.toNat % 256 ∈ legalOps ∧ w.toNat / 65536 = 0 ∧ (w.toNat / 256 % 256 = 0 ∨ w.toNat % 256 ∈ argOps)

/-- One round of the loop of R164 on naturals. -/
def refCrcShift (c : Nat) : Nat := if c % 2 = 1 then (c / 2) ^^^ 0xA001 else c / 2

/-- `crcByte` of R164 on naturals: XOR in the byte, then eight rounds. -/
def refCrcByte (c b : Nat) : Nat := refCrcShift^[8] (c ^^^ b)

/-- `crcUpdate` of R164 on naturals, byte by byte from index 0. -/
def refCrcUpdate (c : Nat) (s : List Nat) : Nat := s.foldl refCrcByte c

/-- The commands that read operands and registers and write nothing but a result: the codec commands (42, 43, 44), the reads
of the CRC register, of the frame buffer and of the CSRs. -/
def answersOnly : Instr → Bool
  | .crcInit | .crcWrite | .fbReset | .fbAppendBytes | .fbAppendU16 | .rtuWriteRequest _ | .rtuClose | .tcpWriteRequest _
  | .tcpClose | .csrWrite _ | .rtuRespException _ | .rtuRespReadFc01 | .rtuRespReadFc02 | .rtuRespReadFc03
  | .rtuRespReadFc04 | .rtuRespWriteFc05 | .rtuRespWriteFc06 | .rtuRespWriteFc0F | .rtuRespWriteFc10
  | .rtuRespUnsupported _ => false
  | _ => true

/-- The fault is in the set. -/
def FaultSet.has (f : FaultSet) : Fault → Bool
  | .fRtuBusy => f.rtuBusy
  | .fTidReuse => f.tidReuse
  | .fMbapOverflow => f.mbapOverflow
  | .fFbOverflow => f.fbOverflow

/-- The serial transport's state (R45 to R47). -/
def serialPart (s : State) :=
  (s.rtuPhase, s.rtuHost, s.rtuAddr, s.rtuTx, s.rtuRx, s.rtuNeed, s.rtuDeadline, s.serOut, s.serIn, s.serOpen)

/-- The stream transport's state (R50 to R58). -/
def streamPart (s : State) :=
  (s.tcpClosed, s.tcpTid, s.tcpMap, s.tcpQueue, s.twState, s.trState, s.waiters, s.tcpOut, s.tcpIn, s.tcpOpen, s.tcpFatal)

/-- The events of the serial transport: the steps of `RTU` and of the serial device. -/
def serialEvent : Event → Bool
  | .rtuSend _ _ | .rtuRead | .rtuReadError | .rtuExpire | .serArrive _ => true
  | .issue .. | .consume _ | .twWrite _ _ | .trRead | .trIoError | .waiterRun _ | .waiterTimeout _ | .tick | .tcpArrive _
  | .reset => false

/-- The events of the stream transport: the steps of `TW`, `TR`, the waiters and the stream peer. -/
def streamEvent : Event → Bool
  | .twWrite _ _ | .trRead | .trIoError | .waiterRun _ | .waiterTimeout _ | .tcpArrive _ => true
  | .issue .. | .consume _ | .rtuSend _ _ | .rtuRead | .rtuReadError | .rtuExpire | .serArrive _ | .tick | .reset => false

/-- The command words of the serial transport, of any argument (R114). -/
def serialWord (w : U32) : Bool := decide (w.toNat % 256 = 0x60 ∨ w.toNat % 256 = 0x61)

/-- The command words of the stream transport, of any argument (R114). -/
def streamWord (w : U32) : Bool := decide (w.toNat % 256 = 0x70 ∨ w.toNat % 256 = 0x71)

/-- The PDU bytes of a response whose length is the one its function code announces (R132): an exception has 2 bytes, a
read response a byte count and that many bytes, a write response 5 bytes. -/
def WellSizedResponse (p : Bytes) : Prop :=
  ∃ fc b rest, p = fc :: b :: rest ∧
    ((isExceptionFc fc = true ∧ rest = []) ∨
      (isExceptionFc fc = false ∧ fc ∈ Config.rtuReadFcs ∧ rest.length = b.toNat) ∨
      (isExceptionFc fc = false ∧ fc ∈ Config.rtuWriteFcs ∧ rest.length = 3))

end Sys2Proof.Machine
end

