-- ==== Sys2Proof/Certificates/Slice0/Obligations.lean ====
section
/-! DEFINITION. The statements for the provers, from the numbered rules of the spec. `s.answer r` is `s` with `r` in the
result port of the issuing host and nothing else changed, so that an equation `exec i s = .next (s.answer r)` states a
result and its frame at once. -/

open Sys2Proof Sys2Proof.Machine

/-! ### Reset, steps, decoding -/

/-- R500: reset sets every state element to its value, and the reset event leads there in one step from every state (that the
inputs not yet happened are not undone, and that the command port returns to its default, is the model's choice, log entries
2 and 3). -/
def Obligations.ResetSetsEveryElement : Prop :=
  let s := State.reset
  s.crc = 0xFFFF ∧ s.fbBuf = [] ∧ s.cfgRtuReadTimeoutMs = 300 ∧ s.cfgTcpReqTimeoutMs = 500 ∧ s.rtuPhase = .idle ∧
  s.rtuHost = none ∧ s.rtuAddr = 0 ∧ s.rtuTx = [] ∧ s.rtuRx = [] ∧ s.rtuNeed = 0 ∧ s.rtuDeadline = 0 ∧
  s.serOut = [] ∧ s.serIn = [] ∧ s.serOpen = true ∧ s.tcpClosed = false ∧ s.tcpTid = 0 ∧ s.tcpMap = [] ∧
  s.tcpQueue = [] ∧ s.twState = .run ∧ s.trState = .rdHdr [] ∧ s.waiters = [] ∧ s.tcpOut = [] ∧ s.tcpIn = [] ∧
  s.tcpOpen = true ∧ s.tcpFatal = .none ∧ s.now = 0 ∧ s.faults = {} ∧ (∀ h, s.results.get h = none) ∧
  ∀ t : State, runEvent .reset t = .next { s with script := t.script, turn := t.turn }

/-- A step is the next event of the interleaving: the next input already decided, or, when none is left, whatever the free
schedule gives; an event whose guard is false changes nothing (R18, R30; that the schedule stands in the state, and that a
disabled event is a step without effect, is the model's choice, log entries 2 and 5). -/
def Obligations.StepTakesTheNextEvent : Prop :=
  ∀ s : State,
    (∀ e rest, s.script = e :: rest → step s = runEvent e { s with script := rest }) ∧
    (s.script = [] → step s = runEvent (Config.freeEvent s.turn) { s with turn := s.turn + 1 }) ∧
    ∀ e, Healthy s → eventEnabled e s = false → runEvent e s = .next s

/-- When the next event is a ready host's command word that decodes to `i`, the step is `exec i` with the port holding that
host, its operands and its draw (R110, R61, R119). -/
def Obligations.StepRunsTheDecodedCommand : Prop :=
  ∀ (s : State) (h : Nat) (w : U32) (ops : Operands) (draw : Nat) (rest : List Event) (i : Instr),
    s.script = .issue h w ops draw :: rest → Healthy s → hostReady h s = true → ops.valid = true →
    decodeCommand w = .ok i →
    step s = exec i { s with script := rest, port := ⟨h, ops, draw⟩ }

/-- When the next event is the framer's read of a response's function-code byte behind the right address, the step is `exec`
of the byte's response class (R366, R367, R119). -/
def Obligations.StepRunsTheResponseClass : Prop :=
  ∀ (s : State) (fc : Byte) (bytes : Bytes) (rest : List Event),
    s.script = .rtuRead :: rest → Healthy s → s.rtuPhase = .hdr → s.rtuNeed = 2 → s.rtuRx = [s.rtuAddr] →
    s.serIn = fc :: bytes → s.now < s.rtuDeadline →
    step s = exec (decodeRespFc fc) { s with script := rest, serIn := bytes, rtuRx := [s.rtuAddr, fc] }

/-- Words written out from the encodings of R114 and the byte patterns of R132 decode to the instructions they stand for. -/
def Obligations.WrittenWordsDecodeToTheirInstructions : Prop :=
  decodeTableWord 32 0x00000001 = some .crcInit ∧ decodeTableWord 32 0x00000012 = some .fbAppendU16 ∧
  decodeTableWord 32 0x00000026 = some .newRrq ∧ decodeTableWord 32 0x0000003A = some .marshalWmrq ∧
  decodeTableWord 32 0x00000044 = some .unmarshalWmbq ∧ decodeTableWord 32 0x00000050 = some .decodeResponse ∧
  decodeTableWord 32 0x00001160 = some (.rtuWriteRequest 0x11) ∧ decodeTableWord 32 0x00000071 = some .tcpClose ∧
  decodeTableWord 32 0x00000880 = some (.csrRead 8) ∧ decodeTableWord 32 0x0000009D = some .reinterpretRaw ∧
  decodeTableWord 8 0x83 = some (.rtuRespException 0x83) ∧ decodeTableWord 8 0x0F = some .rtuRespWriteFc0F ∧
  decodeTableWord 8 0x2B = some (.rtuRespUnsupported 0x2B)

/-- R117: a word is decoded exactly when it is legal, and an illegal word of a ready host ends with
`Err(ERR_ILLEGAL_OP, DT_ENCODING)` and changes no state but the port it came through and the host's result. -/
def Obligations.IllegalWordsChangeNoState : Prop :=
  ∀ w : U32,
    (LegalWord w ↔ ∃ i, decodeCommand w = .ok i) ∧
    ∀ (s : State) (h : Nat) (ops : Operands) (draw : Nat),
      ¬ LegalWord w → Healthy s → hostReady h s = true → ops.valid = true →
      runEvent (.issue h w ops draw) s =
        .next { s with
          port := ⟨h, ops, draw⟩
          results := s.results.put h (Result.err .errIllegalOp .encoding) }

/-- Decoding the encoding of a well-formed instruction gives the instruction back, with every operand at every value. -/
def Obligations.DecodingInvertsEncoding : Prop :=
  ∀ i : Instr, i.wf = true → decodeTableWord (encode i).nbits (encode i).word = some i

/-- Only its encoding decodes to an instruction, and what decodes is well formed: no two rows overlap (R119). -/
def Obligations.EncodingInvertsDecoding : Prop :=
  ∀ (nbits w : Nat) (i : Instr), nbits = 8 ∨ nbits = 32 → decodeTableWord nbits w = some i →
    i.wf = true ∧ encode i = ⟨nbits, w⟩

/-! ### CRC-16 engine and Frame Builder -/

/-- R160 to R163: the words and the effect of the four CRC commands, with everything they leave alone. -/
def Obligations.CrcCommandsDoAsTheirRulesSay : Prop :=
  decodeCommand 0x00000001 = .ok .crcInit ∧ decodeCommand 0x00000002 = .ok .crcWrite ∧
  decodeCommand 0x00000003 = .ok .crcRead ∧ decodeCommand 0x00000004 = .ok .crcChecksum ∧
  ∀ s : State,
    exec .crcInit s = .next { s with crc := 0xFFFF, results := s.results.put s.port.host Result.done } ∧
    exec .crcWrite s = .next { s with
      crc := crcUpdate s.crc s.port.ops.data, results := s.results.put s.port.host Result.done } ∧
    exec .crcRead s = .next { s with results := s.results.put s.port.host (Result.okValue (s.crc.setWidth 32)) } ∧
    exec .crcChecksum s = .next { s with
      results := s.results.put s.port.host (Result.okValue ((crcUpdate 0xFFFF s.port.ops.data).setWidth 32)) }

/-- R164: the CRC function is the bit loop of its rule, computed on naturals. -/
def Obligations.CrcRefinesTheBitLoop : Prop :=
  ∀ (c : U16) (bytes : Bytes),
    (crcUpdate c bytes).toNat = refCrcUpdate c.toNat (bytes.map BitVec.toNat) ∧
    (crc16 bytes).toNat = refCrcUpdate 0xFFFF (bytes.map BitVec.toNat)

/-- R165: updating by two byte strings is updating by their concatenation; so after `CRC_INIT`, any sequence of `CRC_WRITE`
commands and a `CRC_READ` (R160 to R162) leave and return the CRC of the concatenation of their inputs (`CHECKSUM_INC` of
R141; that no step of another agent comes between the commands of the sequence is the model's choice, log entry 12). -/
def Obligations.IncrementalChecksumEqualsOneShot : Prop :=
  (∀ (c : U16) (a b : Bytes), crcUpdate (crcUpdate c a) b = crcUpdate c (a ++ b)) ∧
  ∀ (h : Nat) (parts : List Bytes) (s : State), ∃ t,
    runSequence h (Pseudo.checksumInc parts).expand s = .next t ∧ t.crc = crc16 parts.flatten ∧
    t.results.get h = some (Result.okValue ((crc16 parts.flatten).setWidth 32))

/-- A frame followed by its own CRC, low byte first, has CRC zero. -/
def Obligations.FrameWithItsCrcHasZeroResidue : Prop :=
  ∀ bytes : Bytes, crc16 (bytes ++ le16 (crc16 bytes)) = 0

/-- R180 to R185: the words and the effect of the five Frame Builder commands; none ends with an error or a fault, the
capacity of this hardware being unbounded. -/
def Obligations.FrameBuilderCommandsDoAsTheirRulesSay : Prop :=
  decodeCommand 0x00000010 = .ok .fbReset ∧ decodeCommand 0x00000011 = .ok .fbAppendBytes ∧
  decodeCommand 0x00000012 = .ok .fbAppendU16 ∧ decodeCommand 0x00000013 = .ok .fbFinalizeRaw ∧
  decodeCommand 0x00000014 = .ok .fbFinalizeCrc ∧
  ∀ s : State,
    exec .fbReset s = .next { s with fbBuf := [], results := s.results.put s.port.host Result.done } ∧
    exec .fbAppendBytes s = .next { s with
      fbBuf := s.fbBuf ++ s.port.ops.data, results := s.results.put s.port.host Result.done } ∧
    exec .fbAppendU16 s = .next { s with
      fbBuf := s.fbBuf ++ s.port.ops.words.flatMap (fun w : U16 => [(w >>> 8).setWidth 8, w.setWidth 8])
      results := s.results.put s.port.host Result.done } ∧
    exec .fbFinalizeRaw s = .next { s with results := s.results.put s.port.host (Result.okData s.fbBuf) } ∧
    exec .fbFinalizeCrc s = .next { s with
      results := s.results.put s.port.host
        (Result.okData (s.fbBuf ++ [(crc16 s.fbBuf).setWidth 8, ((crc16 s.fbBuf) >>> 8).setWidth 8])) }

/-- R141: `RTU_FRAME` returns the RTU frame of R130, and `MBAP_FRAME` the MBAP frame of R131 for every PDU that has one
(a sequence runs with no step of another agent between its commands, log entry 12). -/
def Obligations.PseudoCommandsBuildTheTransportFrames : Prop :=
  ∀ (h : Nat) (s : State) (p : PDU),
    (∀ a : Byte, ∃ t, runSequence h (Pseudo.rtuFrame a p).expand s = .next t ∧
      t.results.get h = some (Result.okData (rtuFrame a p.marshal))) ∧
    (∀ (tid : U16) (u : Byte), p.marshal.length ≤ 0xFFFE →
      ∃ t, runSequence h (Pseudo.mbapFrame tid u p).expand s = .next t ∧
        t.results.get h = some (Result.okData (mbapFrame tid u p.marshal)))

/-! ### PDU codec -/

/-- R201, R205, R209, R213, R217, R221: each bit variant is constructed exactly when its checks pass, and the first failing
check in the order listed names the detail. -/
def Obligations.BitConstructorsValidate : Prop :=
  decodeCommand 0x00000020 = .ok .newRbq ∧ decodeCommand 0x00000021 = .ok .newRbs ∧
  decodeCommand 0x00000022 = .ok .newWsbq ∧ decodeCommand 0x00000023 = .ok .newWsbs ∧
  decodeCommand 0x00000024 = .ok .newWmbq ∧ decodeCommand 0x00000025 = .ok .newWmbs ∧
  ∀ (s : State) (n0 n1 n2 : Nat) (data : Bytes),
    s.port.ops.n0.toNat = n0 → s.port.ops.n1.toNat = n1 → s.port.ops.n2.toNat = n2 → s.port.ops.data = data →
    -- function code
    (¬ FcInRange n0 → ∀ i ∈ [Instr.newRbq, .newRbs, .newWsbq, .newWsbs, .newWmbq, .newWmbs],
      FailsWith i s .errValidation .fc) ∧
    (FcInRange n0 →
      -- RBQ
      (n1 > 0xFFFF ∨ n2 > 0xFFFF → FailsWith .newRbq s .errValidation .width) ∧
      (n1 ≤ 0xFFFF → n2 ≤ 0xFFFF → n2 < 1 ∨ n2 > 2000 → FailsWith .newRbq s .errValidation .count) ∧
      (n1 ≤ 0xFFFF → 1 ≤ n2 → n2 ≤ 2000 → n1 + n2 > 0xFFFF → FailsWith .newRbq s .errValidation .addr) ∧
      (1 ≤ n2 → n2 ≤ 2000 → n1 + n2 ≤ 0xFFFF →
        YieldsPdu .newRbq s (.rbq (BitVec.ofNat 8 n0) (BitVec.ofNat 16 n1) (BitVec.ofNat 16 n2))) ∧
      -- RBS
      (data.length > 251 → FailsWith .newRbs s .errValidation .len) ∧
      (data.length ≤ 251 → YieldsPdu .newRbs s (.rbs (BitVec.ofNat 8 n0) data)) ∧
      -- WSBQ and WSBS
      (n1 > 0xFFFF ∨ n2 > 1 →
        FailsWith .newWsbq s .errValidation .width ∧ FailsWith .newWsbs s .errValidation .width) ∧
      (∀ value : Bool, n1 ≤ 0xFFFF → n2 = value.toNat →
        YieldsPdu .newWsbq s (.wsbq (BitVec.ofNat 8 n0) (BitVec.ofNat 16 n1) value) ∧
        YieldsPdu .newWsbs s (.wsbs (BitVec.ofNat 8 n0) (BitVec.ofNat 16 n1) value)) ∧
      -- WMBQ
      (n1 > 0xFFFF ∨ n2 > 0xFFFF → FailsWith .newWmbq s .errValidation .width) ∧
      (n1 ≤ 0xFFFF → n2 ≤ 0xFFFF → n2 > 0x7B0 → FailsWith .newWmbq s .errValidation .count) ∧
      (n1 ≤ 0xFFFF → n2 ≤ 0x7B0 → ¬ (n2 ≤ 8 * data.length ∧ 8 * data.length < n2 + 8) →
        FailsWith .newWmbq s .errValidation .len) ∧
      (n1 ≤ 0xFFFF → n2 ≤ 0x7B0 → n2 ≤ 8 * data.length → 8 * data.length < n2 + 8 →
        YieldsPdu .newWmbq s (.wmbq (BitVec.ofNat 8 n0) (BitVec.ofNat 16 n1) (BitVec.ofNat 16 n2) data)) ∧
      -- WMBS
      (n1 > 0xFFFF ∨ n2 > 0xFFFF → FailsWith .newWmbs s .errValidation .width) ∧
      (n1 ≤ 0xFFFF → n2 ≤ 0xFFFF →
        YieldsPdu .newWmbs s (.wmbs (BitVec.ofNat 8 n0) (BitVec.ofNat 16 n1) (BitVec.ofNat 16 n2))))

/-- R261, R265, R269, R273, R277, R281: the same for the register variants (that a count above 125 fails at start 0x80 too,
where R261's corner case says that count 0x7F succeeds, is the model's choice between two readings of R261, log entry 15). -/
def Obligations.RegisterConstructorsValidate : Prop :=
  decodeCommand 0x00000026 = .ok .newRrq ∧ decodeCommand 0x00000027 = .ok .newRrs ∧
  decodeCommand 0x00000028 = .ok .newWsrq ∧ decodeCommand 0x00000029 = .ok .newWsrs ∧
  decodeCommand 0x0000002A = .ok .newWmrq ∧ decodeCommand 0x0000002B = .ok .newWmrs ∧
  ∀ (s : State) (n0 n1 n2 : Nat) (data : Bytes),
    s.port.ops.n0.toNat = n0 → s.port.ops.n1.toNat = n1 → s.port.ops.n2.toNat = n2 → s.port.ops.data = data →
    -- function code
    (¬ FcInRange n0 → ∀ i ∈ [Instr.newRrq, .newRrs, .newWsrq, .newWsrs, .newWmrq, .newWmrs],
      FailsWith i s .errValidation .fc) ∧
    (FcInRange n0 →
      -- RRQ
      (n1 > 0xFFFF ∨ n2 > 0xFFFF → FailsWith .newRrq s .errValidation .width) ∧
      (n1 ≤ 0xFFFF → n2 ≤ 0xFFFF → n1 + n2 > 0xFF → FailsWith .newRrq s .errValidation .addr) ∧
      (n1 + n2 ≤ 0xFF → n2 > 125 → FailsWith .newRrq s .errValidation .count) ∧
      (n1 + n2 ≤ 0xFF → n2 ≤ 125 →
        YieldsPdu .newRrq s (.rrq (BitVec.ofNat 8 n0) (BitVec.ofNat 16 n1) (BitVec.ofNat 16 n2))) ∧
      -- RRS
      (data.length % 2 = 1 ∨ data.length > 250 → FailsWith .newRrs s .errValidation .len) ∧
      (data.length % 2 = 0 → data.length ≤ 250 → YieldsPdu .newRrs s (.rrs (BitVec.ofNat 8 n0) data)) ∧
      -- WSRQ and WSRS
      (n1 > 0xFFFF → FailsWith .newWsrq s .errValidation .width ∧ FailsWith .newWsrs s .errValidation .width) ∧
      (n1 ≤ 0xFFFF → data.length ≠ 2 →
        FailsWith .newWsrq s .errValidation .len ∧ FailsWith .newWsrs s .errValidation .len) ∧
      (n1 ≤ 0xFFFF → data.length = 2 →
        YieldsPdu .newWsrq s (.wsrq (BitVec.ofNat 8 n0) (BitVec.ofNat 16 n1) data) ∧
        YieldsPdu .newWsrs s (.wsrs (BitVec.ofNat 8 n0) (BitVec.ofNat 16 n1) data)) ∧
      -- WMRQ
      (n1 > 0xFFFF ∨ n2 > 0xFFFF → FailsWith .newWmrq s .errValidation .width) ∧
      (n1 ≤ 0xFFFF → n2 ≤ 0xFFFF → n2 < 1 ∨ n2 > 0x7B → FailsWith .newWmrq s .errValidation .count) ∧
      (n1 ≤ 0xFFFF → 1 ≤ n2 → n2 ≤ 0x7B → data.length ≠ 2 * n2 → FailsWith .newWmrq s .errValidation .len) ∧
      (n1 ≤ 0xFFFF → 1 ≤ n2 → n2 ≤ 0x7B → data.length = 2 * n2 →
        YieldsPdu .newWmrq s (.wmrq (BitVec.ofNat 8 n0) (BitVec.ofNat 16 n1) (BitVec.ofNat 16 n2) data)) ∧
      -- WMRS
      (n1 > 0xFFFF ∨ n2 > 0xFFFF → FailsWith .newWmrs s .errValidation .width) ∧
      (n1 ≤ 0xFFFF → n2 ≤ 0xFFFF →
        YieldsPdu .newWmrs s (.wmrs (BitVec.ofNat 8 n0) (BitVec.ofNat 16 n1) (BitVec.ofNat 16 n2))))

/-- R321 and R325: the exception response and the raw PDU. -/
def Obligations.ExceptionAndRawConstructorsValidate : Prop :=
  decodeCommand 0x0000002C = .ok .newExc ∧ decodeCommand 0x0000002D = .ok .newRaw ∧
  ∀ (s : State) (n0 n1 : Nat), s.port.ops.n0.toNat = n0 → s.port.ops.n1.toNat = n1 →
    (n0 ≤ 0x80 ∨ n0 > 0xFF → FailsWith .newExc s .errValidation .errCode) ∧
    (0x80 < n0 → n0 ≤ 0xFF → n1 < 1 ∨ n1 > 0xFF → FailsWith .newExc s .errValidation .exCode) ∧
    (0x80 < n0 → n0 ≤ 0xFF → 1 ≤ n1 → n1 ≤ 0xFF →
      YieldsPdu .newExc s (.exc (BitVec.ofNat 8 n0) (BitVec.ofNat 8 n1))) ∧
    (s.port.ops.data.length < 2 → FailsWith .newRaw s .errValidation .len) ∧
    (∀ b0 b1 rest, s.port.ops.data = b0 :: b1 :: rest → YieldsPdu .newRaw s (.raw b0 b1 rest))

/-- R224 with the layouts of R121: `MARSHAL.<V>` returns the layout of its variant's fields, and a PDU of another tag is
`Err(ERR_ILLEGAL_OP, DT_OPERAND)`. -/
def Obligations.MarshalReturnsTheWireLayout : Prop :=
  (∀ (v : Variant) (s : State), s.port.ops.pdu.variant ≠ v → FailsWith (Instr.marshalOf v) s .errIllegalOp .operand) ∧
  ∀ (s : State) (fc b0 b1 : Byte) (x y : U16) (value : Bool) (bytes : Bytes),
    let hi (w : U16) : Byte := (w >>> 8).setWidth 8
    let lo (w : U16) : Byte := w.setWidth 8
    let n : Byte := BitVec.ofNat 8 bytes.length
    let returns (i : Instr) (p : PDU) (wire : Bytes) : Prop :=
      s.port.ops.pdu = p → exec i s = .next (s.answer (Result.okData wire))
    returns .marshalRbq (.rbq fc x y) [fc, hi x, lo x, hi y, lo y] ∧
    returns .marshalRbs (.rbs fc bytes) (fc :: n :: bytes) ∧
    returns .marshalWsbq (.wsbq fc x value) [fc, hi x, lo x, if value then 0xFF else 0x00, 0x00] ∧
    returns .marshalWsbs (.wsbs fc x value) [fc, hi x, lo x, if value then 0xFF else 0x00, 0x00] ∧
    returns .marshalWmbq (.wmbq fc x y bytes) (fc :: hi x :: lo x :: hi y :: lo y :: n :: bytes) ∧
    returns .marshalWmbs (.wmbs fc x y) [fc, hi x, lo x, hi y, lo y] ∧
    returns .marshalRrq (.rrq fc x y) [fc, hi x, lo x, hi y, lo y] ∧
    returns .marshalRrs (.rrs fc bytes) (fc :: n :: bytes) ∧
    returns .marshalWsrq (.wsrq fc x bytes) (fc :: hi x :: lo x :: bytes) ∧
    returns .marshalWsrs (.wsrs fc x bytes) (fc :: hi x :: lo x :: bytes) ∧
    returns .marshalWmrq (.wmrq fc x y bytes) (fc :: hi x :: lo x :: hi y :: lo y :: n :: bytes) ∧
    returns .marshalWmrs (.wmrs fc x y) [fc, hi x, lo x, hi y, lo y] ∧
    returns .marshalExc (.exc b0 b1) [b0, b1] ∧
    returns .marshalRaw (.raw b0 b1 bytes) (b0 :: b1 :: bytes)

/-- R226: for every variant and every PDU that `NEW.<V>` yields, `UNMARSHAL.<V>` of the bytes that `MARSHAL.<V>` returns
yields that PDU. -/
def Obligations.MarshalThenUnmarshalRoundTrips : Prop :=
  ∀ (v : Variant) (s0 : State) (p : PDU), YieldsPdu (Instr.newOf v) s0 p →
    ∃ wire,
      (∀ s : State, s.port.ops.pdu = p → exec (Instr.marshalOf v) s = .next (s.answer (Result.okData wire))) ∧
      (∀ s : State, s.port.ops.data = wire → YieldsPdu (Instr.unmarshalOf v) s p)

/-- R19, R200: the PDUs that `NEW.<V>` yields are exactly the valid PDU values with tag `<V>` (an RRQ of start 0x80 and count
0x7F is none of them: the model's choice, log entry 15). -/
def Obligations.ConstructorsYieldExactlyTheValidPdus : Prop :=
  ∀ (v : Variant) (p : PDU),
    (∃ s : State, YieldsPdu (Instr.newOf v) s p) ↔ (p.variant = v ∧ p.valid = true)

/-- Every variant's decoder yields a PDU exactly when that PDU is valid, has the decoder's tag and marshals to the bytes
presented: it completes on the wire bytes of every valid PDU of its variant, and what it yields was "never silently truncated
or padded" (R225, R226, R127; which RRQ values are valid rests on log entry 15). -/
def Obligations.UnmarshalAcceptsExactlyTheMarshalledBytes : Prop :=
  ∀ (v : Variant) (s : State) (p : PDU),
    YieldsPdu (Instr.unmarshalOf v) s p ↔ (p.variant = v ∧ p.valid = true ∧ p.marshal = s.port.ops.data)

/-- R203, R207, R211, R215, R219, R223: the length, byte-count and value-word checks of the bit decoders, and their use of
the constructors. -/
def Obligations.BitDecodersCheckLengthThenConstruct : Prop :=
  decodeCommand 0x00000040 = .ok .unmarshalRbq ∧ decodeCommand 0x00000041 = .ok .unmarshalRbs ∧
  decodeCommand 0x00000042 = .ok .unmarshalWsbq ∧ decodeCommand 0x00000043 = .ok .unmarshalWsbs ∧
  decodeCommand 0x00000044 = .ok .unmarshalWmbq ∧ decodeCommand 0x00000045 = .ok .unmarshalWmbs ∧
  ∀ s : State,
    -- RBQ and WMBS: five bytes
    (s.port.ops.data.length ≠ 5 →
      FailsWith .unmarshalRbq s .errDecode .frameLen ∧ FailsWith .unmarshalWmbs s .errDecode .frameLen) ∧
    (∀ fc a1 a0 c1 c0 u, s.port.ops.data = [fc, a1, a0, c1, c0] → u.port.ops.n0.toNat = fc.toNat →
      u.port.ops.n1.toNat = a1.toNat * 256 + a0.toNat → u.port.ops.n2.toNat = c1.toNat * 256 + c0.toNat →
      DecodesAs .unmarshalRbq s .newRbq u ∧ DecodesAs .unmarshalWmbs s .newWmbs u) ∧
    -- RBS: function code and byte count
    (s.port.ops.data.length < 2 → FailsWith .unmarshalRbs s .errDecode .frameLen) ∧
    (∀ fc n bits, s.port.ops.data = fc :: n :: bits →
      (bits.length ≠ n.toNat → FailsWith .unmarshalRbs s .errDecode .byteCount) ∧
      (bits.length = n.toNat → ∀ u, u.port.ops.n0.toNat = fc.toNat → u.port.ops.data = bits →
        DecodesAs .unmarshalRbs s .newRbs u)) ∧
    -- WSBQ and WSBS: five bytes and a value word
    (s.port.ops.data.length ≠ 5 →
      FailsWith .unmarshalWsbq s .errDecode .frameLen ∧ FailsWith .unmarshalWsbs s .errDecode .frameLen) ∧
    (∀ fc a1 a0 v1 v0, s.port.ops.data = [fc, a1, a0, v1, v0] →
      (¬ (v0 = 0x00 ∧ (v1 = 0xFF ∨ v1 = 0x00)) →
        FailsWith .unmarshalWsbq s .errDecode .coilValue ∧ FailsWith .unmarshalWsbs s .errDecode .coilValue) ∧
      (∀ u, v0 = 0x00 → v1 = 0xFF ∧ u.port.ops.n2 = 1 ∨ v1 = 0x00 ∧ u.port.ops.n2 = 0 →
        u.port.ops.n0.toNat = fc.toNat → u.port.ops.n1.toNat = a1.toNat * 256 + a0.toNat →
        DecodesAs .unmarshalWsbq s .newWsbq u ∧ DecodesAs .unmarshalWsbs s .newWsbs u)) ∧
    -- WMBQ: six bytes and a byte count
    (s.port.ops.data.length < 6 → FailsWith .unmarshalWmbq s .errDecode .frameLen) ∧
    (∀ fc a1 a0 c1 c0 n values, s.port.ops.data = fc :: a1 :: a0 :: c1 :: c0 :: n :: values →
      (values.length ≠ n.toNat → FailsWith .unmarshalWmbq s .errDecode .byteCount) ∧
      (values.length = n.toNat → ∀ u, u.port.ops.n0.toNat = fc.toNat →
        u.port.ops.n1.toNat = a1.toNat * 256 + a0.toNat → u.port.ops.n2.toNat = c1.toNat * 256 + c0.toNat →
        u.port.ops.data = values → DecodesAs .unmarshalWmbq s .newWmbq u))

/-- R263, R267, R271, R275, R279, R283, R323, R327: the same for the register decoders, the exception response and the raw
PDU. -/
def Obligations.RegisterDecodersCheckLengthThenConstruct : Prop :=
  decodeCommand 0x00000046 = .ok .unmarshalRrq ∧ decodeCommand 0x00000047 = .ok .unmarshalRrs ∧
  decodeCommand 0x00000048 = .ok .unmarshalWsrq ∧ decodeCommand 0x00000049 = .ok .unmarshalWsrs ∧
  decodeCommand 0x0000004A = .ok .unmarshalWmrq ∧ decodeCommand 0x0000004B = .ok .unmarshalWmrs ∧
  decodeCommand 0x0000004C = .ok .unmarshalExc ∧ decodeCommand 0x0000004D = .ok .unmarshalRaw ∧
  ∀ s : State,
    -- RRQ and WMRS: five bytes
    (s.port.ops.data.length ≠ 5 →
      FailsWith .unmarshalRrq s .errDecode .frameLen ∧ FailsWith .unmarshalWmrs s .errDecode .frameLen) ∧
    (∀ fc a1 a0 c1 c0 u, s.port.ops.data = [fc, a1, a0, c1, c0] → u.port.ops.n0.toNat = fc.toNat →
      u.port.ops.n1.toNat = a1.toNat * 256 + a0.toNat → u.port.ops.n2.toNat = c1.toNat * 256 + c0.toNat →
      DecodesAs .unmarshalRrq s .newRrq u ∧ DecodesAs .unmarshalWmrs s .newWmrs u) ∧
    -- RRS: function code and byte count
    (s.port.ops.data.length < 2 → FailsWith .unmarshalRrs s .errDecode .frameLen) ∧
    (∀ fc n values, s.port.ops.data = fc :: n :: values →
      (values.length ≠ n.toNat → FailsWith .unmarshalRrs s .errDecode .byteCount) ∧
      (values.length = n.toNat → ∀ u, u.port.ops.n0.toNat = fc.toNat → u.port.ops.data = values →
        DecodesAs .unmarshalRrs s .newRrs u)) ∧
    -- WSRQ and WSRS: five bytes
    (s.port.ops.data.length ≠ 5 →
      FailsWith .unmarshalWsrq s .errDecode .frameLen ∧ FailsWith .unmarshalWsrs s .errDecode .frameLen) ∧
    (∀ fc a1 a0 v1 v0 u, s.port.ops.data = [fc, a1, a0, v1, v0] → u.port.ops.n0.toNat = fc.toNat →
      u.port.ops.n1.toNat = a1.toNat * 256 + a0.toNat → u.port.ops.data = [v1, v0] →
      DecodesAs .unmarshalWsrq s .newWsrq u ∧ DecodesAs .unmarshalWsrs s .newWsrs u) ∧
    -- WMRQ: six bytes and a byte count
    (s.port.ops.data.length < 6 → FailsWith .unmarshalWmrq s .errDecode .frameLen) ∧
    (∀ fc a1 a0 c1 c0 n values, s.port.ops.data = fc :: a1 :: a0 :: c1 :: c0 :: n :: values →
      (values.length ≠ n.toNat → FailsWith .unmarshalWmrq s .errDecode .byteCount) ∧
      (values.length = n.toNat → ∀ u, u.port.ops.n0.toNat = fc.toNat →
        u.port.ops.n1.toNat = a1.toNat * 256 + a0.toNat → u.port.ops.n2.toNat = c1.toNat * 256 + c0.toNat →
        u.port.ops.data = values → DecodesAs .unmarshalWmrq s .newWmrq u)) ∧
    -- EXC: two bytes
    (s.port.ops.data.length ≠ 2 → FailsWith .unmarshalExc s .errDecode .frameLen) ∧
    (∀ e x u, s.port.ops.data = [e, x] → u.port.ops.n0.toNat = e.toNat → u.port.ops.n1.toNat = x.toNat →
      DecodesAs .unmarshalExc s .newExc u) ∧
    -- RAW: any bytes, two or more
    (∀ u, u.port.ops.data = s.port.ops.data → DecodesAs .unmarshalRaw s .newRaw u)

/-- R330: `REINTERPRET.<V>` ends as `UNMARSHAL.<V>` does on the bytes its source marshals to, a PDU reinterpreted as its own
tag is returned, and every PDU reinterprets as RAW. -/
def Obligations.ReinterpretMarshalsThenUnmarshals : Prop :=
  (∀ v : Variant, ∃ n, variantOf n = some v ∧ decodeCommand (BitVec.ofNat 32 (0x90 + n)) = .ok (Instr.reinterpretOf v)) ∧
  (∀ (v : Variant) (s u : State) (r : Result), u.port.ops.data = s.port.ops.pdu.marshal →
    exec (Instr.unmarshalOf v) u = .next (u.answer r) → exec (Instr.reinterpretOf v) s = .next (s.answer r)) ∧
  (∀ s : State, s.port.ops.pdu.valid = true →
    YieldsPdu (Instr.reinterpretOf s.port.ops.pdu.variant) s s.port.ops.pdu) ∧
  (∀ s : State, s.port.ops.pdu.valid = true →
    ∃ b0 b1 rest, s.port.ops.pdu.marshal = b0 :: b1 :: rest ∧ YieldsPdu .reinterpretRaw s (.raw b0 b1 rest))

/-- R331: for a request, a response whose byte 0 is the request's function code OR 0x80 is decoded as EXC and any other as
the request's response variant, so that it yields the PDU of that variant whose wire bytes they are; a PDU that is no request
is `Err(ERR_DECODE, DT_NO_RESPONSE_SHAPE)`. -/
def Obligations.DecodeResponseAppliesTheExceptionConvention : Prop :=
  decodeCommand 0x00000050 = .ok .decodeResponse ∧
  ∀ (s : State) (fc b : Byte) (rest : Bytes),
    s.port.ops.pdu2.marshal = b :: rest →
    (s.port.ops.pdu.variant ∈ [Variant.rbs, .wsbs, .wmbs, .rrs, .wsrs, .wmrs, .exc, .raw] →
      FailsWith .decodeResponse s .errDecode .noResponseShape) ∧
    ∀ request response : Variant,
      (request, response) ∈ [(Variant.rbq, Variant.rbs), (.wsbq, .wsbs), (.wmbq, .wmbs), (.rrq, .rrs), (.wsrq, .wsrs),
        (.wmrq, .wmrs)] →
      s.port.ops.pdu.variant = request → s.port.ops.pdu.functionCode = fc →
      (∀ (u : State) (r : Result), u.port.ops.data = b :: rest →
        exec (if b = fc ||| 0x80 then .unmarshalExc else Instr.unmarshalOf response) u = .next (u.answer r) →
        exec .decodeResponse s = .next (s.answer r)) ∧
      (∀ p : PDU, p.variant = (if b = fc ||| 0x80 then .exc else response) → p.valid = true → p.marshal = b :: rest →
        YieldsPdu .decodeResponse s p)

/-- R339: `PDU_FC` returns the error code of an EXC, the first byte of a RAW and the field `fc` of every other variant, which is
byte 0 of the wire bytes of the PDU. -/
def Obligations.PduFcIsByteZeroOfTheWireBytes : Prop :=
  decodeCommand 0x00000055 = .ok .pduFc ∧
  ∀ s : State,
    let b : Byte := match s.port.ops.pdu with
      | .exc errorCode _ => errorCode
      | .raw b0 _ _ => b0
      | .rbq fc _ _ | .rbs fc _ | .wsbq fc _ _ | .wsbs fc _ _ | .wmbq fc _ _ _ | .wmbs fc _ _ => fc
      | .rrq fc _ _ | .rrs fc _ | .wsrq fc _ _ | .wsrs fc _ _ | .wmrq fc _ _ _ | .wmrs fc _ _ => fc
    (∃ rest, s.port.ops.pdu.marshal = b :: rest) ∧ exec .pduFc s = .next (s.answer (Result.okValue (b.setWidth 32)))

/-- R335 and R336: unpacking and packing of bits, LSB-first, index by index; packing then unpacking gives the bits back,
followed by false padding. -/
def Obligations.BitPackingIsLsbFirst : Prop :=
  decodeCommand 0x00000051 = .ok .bytesToBools ∧ decodeCommand 0x00000052 = .ok .boolsToBytes ∧
  ∀ s : State,
    (∃ bits, exec .bytesToBools s = .next (s.answer { status := .ok, bools := some bits }) ∧
      bits.length = 8 * s.port.ops.data.length ∧
      ∀ i, i < bits.length →
        bits[i]? = (s.port.ops.data[i / 8]?).map (fun b => decide (b.toNat / 2 ^ (i % 8) % 2 = 1))) ∧
    (∃ out, exec .boolsToBytes s = .next (s.answer { status := .ok, data := some out }) ∧
      s.port.ops.bools.length ≤ 8 * out.length ∧ 8 * out.length < s.port.ops.bools.length + 8 ∧
      (∀ j k, j < out.length → k < 8 →
        (out[j]?).map (fun b => b.getLsbD k) = some ((s.port.ops.bools[8 * j + k]?).getD false)) ∧
      ∀ u : State, u.port.ops.data = out →
        exec .bytesToBools u = .next (u.answer { status := .ok, bools := some (s.port.ops.bools ++
          List.replicate (8 * out.length - s.port.ops.bools.length) false) }))

/-- R337 and R338: register payloads as big-endian words and as word-swapped binary32 patterns, index by index; other lengths
are `Err(ERR_DECODE, DT_ODD_WORDS)`. -/
def Obligations.RegisterPayloadsDecodeToWordsAndFloats : Prop :=
  decodeCommand 0x00000053 = .ok .regsToU16 ∧ decodeCommand 0x00000054 = .ok .regsToF32 ∧
  ∀ s : State,
    (s.port.ops.data.length % 2 ≠ 0 → FailsWith .regsToU16 s .errDecode .oddWords) ∧
    (s.port.ops.data.length % 4 ≠ 0 → FailsWith .regsToF32 s .errDecode .oddWords) ∧
    (s.port.ops.data.length % 2 = 0 → ∃ words,
      exec .regsToU16 s = .next (s.answer { status := .ok, words := some words }) ∧
      2 * words.length = s.port.ops.data.length ∧
      ∀ (k : Nat) (b0 b1 : Byte), s.port.ops.data[2 * k]? = some b0 → s.port.ops.data[2 * k + 1]? = some b1 →
        words[k]? = some (BitVec.ofNat 16 (b0.toNat * 256 + b1.toNat))) ∧
    (s.port.ops.data.length % 4 = 0 → ∃ floats,
      exec .regsToF32 s = .next (s.answer { status := .ok, floats := some floats }) ∧
      4 * floats.length = s.port.ops.data.length ∧
      ∀ (j : Nat) (b0 b1 b2 b3 : Byte), s.port.ops.data[4 * j]? = some b0 → s.port.ops.data[4 * j + 1]? = some b1 →
        s.port.ops.data[4 * j + 2]? = some b2 → s.port.ops.data[4 * j + 3]? = some b3 →
        floats[j]? = some (BitVec.ofNat 32
          (b2.toNat * 2 ^ 24 + b3.toNat * 2 ^ 16 + b0.toNat * 2 ^ 8 + b1.toNat)))

/-- R345 and R346 with R36 to R44: what each CSR reads as, which two CSRs a write changes, and the error on every other
number; the pending count fits its 17 bits in every state whose maps are canonical (which every step keeps:
`StepKeepsMapsCanonical`). -/
def Obligations.CsrAccessReadsStatusAndWritesTimeouts : Prop :=
  (∀ a : Byte, decodeCommand (a.setWidth 32 <<< 8 ||| 0x80) = .ok (.csrRead a) ∧
    decodeCommand (a.setWidth 32 <<< 8 ||| 0x81) = .ok (.csrWrite a)) ∧
  ∀ s : State,
    let reads (csr : Byte) (n : Nat) : Prop :=
      exec (.csrRead csr) s = .next (s.answer { status := .ok, value := some (BitVec.ofNat 32 n) })
    reads 0 s.cfgRtuReadTimeoutMs.toNat ∧
    reads 1 s.cfgTcpReqTimeoutMs.toNat ∧
    reads 2 (match s.rtuPhase with | .idle => 0 | .send => 1 | .hdr => 2 | .len => 3 | .body => 4 | .closed => 5) ∧
    reads 3 ((if s.tcpClosed then 1 else 0) + (if s.twState = .run then 2 else 0) +
      (if s.trState ≠ .rdStop then 4 else 0)) ∧
    reads 4 s.tcpTid.toNat ∧
    reads 5 s.tcpMap.length ∧
    (MapsOk s → s.tcpMap.length ≤ 65536) ∧
    reads 6 ((if s.faults.rtuBusy then 1 else 0) + (if s.faults.tidReuse then 2 else 0) +
      (if s.faults.mbapOverflow then 4 else 0) + (if s.faults.fbOverflow then 8 else 0)) ∧
    reads 7 (match s.tcpFatal with
      | .none => 0 | .protocolId => 1 | .unknownTid => 2 | .unitMismatch => 3 | .io => 4 | .length => 5) ∧
    (∀ csr : Byte, csr.toNat > 7 → FailsWith (.csrRead csr) s .errIllegalOp .csr) ∧
    exec (.csrWrite 0) s = .next { s with
      cfgRtuReadTimeoutMs := s.port.ops.n0, results := s.results.put s.port.host Result.done } ∧
    exec (.csrWrite 1) s = .next { s with
      cfgTcpReqTimeoutMs := s.port.ops.n0, results := s.results.put s.port.host Result.done } ∧
    ∀ csr : Byte, csr.toNat > 1 → FailsWith (.csrWrite csr) s .errIllegalOp .csr

/-- The frame of every command that only answers (the codec commands, `CRC_READ`, `CRC_CHECKSUM`, the finalizing commands,
`CSR_READ`): it writes the issuing host's result port and no block state (42, 43 and 44, opening sections). -/
def Obligations.CodecCommandsWriteOnlyTheResultPort : Prop :=
  ∀ (i : Instr) (s : State), answersOnly i = true → ∃ r, exec i s = .next (s.answer r)

/-- Every instruction answers a next state from every state: no instruction stops the machine by itself. Where an instruction
raises a fault (R15, R470), that the answer is a state with the fault recorded, and that the steps after it stop, is the
model's choice, log entry 6. -/
def Obligations.EveryInstructionAnswersANextState : Prop :=
  ∀ (i : Instr) (s : State), ∃ t, exec i s = .next t

/-! ### The block as a whole -/

/-- R32, R34, R35, R37, R38, R51, R59: outside reset, the CRC register, the frame buffer, the two timeout CSRs, the
transaction id counter and the time change only in the steps of the commands or agents that their rules name. -/
def Obligations.RegistersChangeOnlyInTheirOwnSteps : Prop :=
  ∀ s t : State, step s = .next t → nextEvent s ≠ .reset →
    (t.crc ≠ s.crc → ∃ h ops d, nextEvent s = .issue h 0x01 ops d ∨ nextEvent s = .issue h 0x02 ops d) ∧
    (t.fbBuf ≠ s.fbBuf → ∃ h ops d,
      nextEvent s = .issue h 0x10 ops d ∨ nextEvent s = .issue h 0x11 ops d ∨ nextEvent s = .issue h 0x12 ops d) ∧
    (t.cfgRtuReadTimeoutMs ≠ s.cfgRtuReadTimeoutMs → ∃ h ops d, nextEvent s = .issue h 0x081 ops d) ∧
    (t.cfgTcpReqTimeoutMs ≠ s.cfgTcpReqTimeoutMs → ∃ h ops d, nextEvent s = .issue h 0x181 ops d) ∧
    (t.tcpTid ≠ s.tcpTid → t.tcpTid = s.tcpTid + 1 ∧ ∃ c, nextEvent s = .waiterRun c) ∧
    (t.now ≠ s.now → t.now = s.now + 1 ∧ nextEvent s = .tick)

/-- R47, R57, R86, R89: outside reset, the output streams only grow at their end, and an input stream loses its first byte,
gains a byte that the environment sends, or stays. -/
def Obligations.StreamsGrowAtTheEndAndAreReadAtTheHead : Prop :=
  ∀ s t : State, step s = .next t → nextEvent s ≠ .reset →
    s.serOut <+: t.serOut ∧ s.tcpOut <+: t.tcpOut ∧
    (t.serIn = s.serIn ∨ (∃ b, s.serIn = b :: t.serIn ∧ nextEvent s = .rtuRead) ∨
      ∃ b, t.serIn = s.serIn ++ [b] ∧ nextEvent s = .serArrive b) ∧
    (t.tcpIn = s.tcpIn ∨ (∃ b, s.tcpIn = b :: t.tcpIn ∧ nextEvent s = .trRead) ∨
      ∃ b, t.tcpIn = s.tcpIn ++ [b] ∧ nextEvent s = .tcpArrive b)

/-- R44, R45, R50, R502: outside reset, a closed transport stays closed and the first connection-fatal cause is kept. -/
def Obligations.ClosedTransportsStayClosed : Prop :=
  ∀ s t : State, step s = .next t → nextEvent s ≠ .reset →
    (s.tcpClosed = true → t.tcpClosed = true) ∧
    (s.rtuPhase = .closed → t.rtuPhase = .closed) ∧
    (s.tcpFatal ≠ .none → t.tcpFatal = s.tcpFatal)

/-- The two transports share no state: a step of the serial transport changes nothing of the stream transport, of `crc` or of
`fb_buf`, and the other way round; and what an event or a command of one transport does to that transport's state, to the
fault set and to the results depends on its own state, its own timeout CSR, the command port and the time alone (R35, R45 to
R58, R512). -/
def Obligations.TransportsDoNotInterfere : Prop :=
  let alike (part : State → State → Prop) (t1 t2 : State) (s1 s2 : State) : Prop :=
    part t1 t2 ∧ t1.faults = t2.faults ∧ (s1.results = s2.results → t1.results = t2.results)
  let serial (s1 s2 : State) : Prop := serialPart s1 = serialPart s2
  let stream (s1 s2 : State) : Prop := streamPart s1 = streamPart s2
  (∀ s t : State, step s = .next t →
    (serialEvent (nextEvent s) = true ∨ (∃ h w ops d, nextEvent s = .issue h w ops d ∧ serialWord w = true) →
      streamPart t = streamPart s ∧ t.crc = s.crc ∧ t.fbBuf = s.fbBuf) ∧
    (streamEvent (nextEvent s) = true ∨ (∃ h w ops d, nextEvent s = .issue h w ops d ∧ streamWord w = true) →
      serialPart t = serialPart s ∧ t.crc = s.crc ∧ t.fbBuf = s.fbBuf)) ∧
  ∀ s1 s2 t1 t2 : State, Healthy s1 → Healthy s2 →
    (∀ e, serialEvent e = true → serial s1 s2 → s1.now = s2.now → s1.cfgRtuReadTimeoutMs = s2.cfgRtuReadTimeoutMs →
      runEvent e s1 = .next t1 → runEvent e s2 = .next t2 → alike serial t1 t2 s1 s2) ∧
    (∀ e, streamEvent e = true → stream s1 s2 → s1.now = s2.now →
      runEvent e s1 = .next t1 → runEvent e s2 = .next t2 → alike stream t1 t2 s1 s2) ∧
    (∀ i, i = .rtuClose ∨ (∃ a, i = .rtuWriteRequest a) → serial s1 s2 → s1.port = s2.port →
      exec i s1 = .next t1 → exec i s2 = .next t2 → alike serial t1 t2 s1 s2) ∧
    (∀ i, i = .tcpClose ∨ (∃ u, i = .tcpWriteRequest u) → stream s1 s2 → s1.port = s2.port → s1.now = s2.now →
      s1.cfgTcpReqTimeoutMs = s2.cfgTcpReqTimeoutMs →
      exec i s1 = .next t1 → exec i s2 = .next t2 → alike stream t1 t2 s1 s2)

/-- R59, R61, R87, R90: what a host's consumption and the steps of the environment do, and that they do nothing else. A host
that consumes its result has none afterwards, every other host keeps its own, and it may issue its next command when it
waits for no other result; `Tick` advances the time by one; a byte that the serial device or the stream peer sends is the
last one of its input. -/
def Obligations.ConsumeTickAndArrivalsDoTheirEffect : Prop :=
  ∀ s : State, Healthy s →
    (∀ h : Nat, s.results.get h ≠ none → ∃ m : Assoc Result,
      runEvent (.consume h) s = .next { s with results := m } ∧ m.get h = none ∧
      (∀ g : Nat, g ≠ h → m.get g = s.results.get g) ∧
      (hostWaiting h s = false → hostReady h { s with results := m } = true)) ∧
    runEvent .tick s = .next { s with now := s.now + 1 } ∧
    (∀ b : Byte, runEvent (.serArrive b) s = .next { s with serIn := s.serIn ++ [b] }) ∧
    (∀ b : Byte, s.tcpOpen = true → runEvent (.tcpArrive b) s = .next { s with tcpIn := s.tcpIn ++ [b] })

/-- R60, R470, R500, R502: once a fault is recorded, every step but a reset stops with a recorded fault; no step stops
without one; and a reset leads to the reset state whatever came before. -/
def Obligations.FaultsStopEveryStepButReset : Prop :=
  ∀ s : State,
    (¬ Healthy s → nextEvent s ≠ .reset → ∃ f, step s = .fault f ∧ s.faults.has f = true) ∧
    (Healthy s → ∃ t, step s = .next t) ∧
    (nextEvent s = .reset → step s = .next { State.reset with script := (afterEvent s).script, turn := (afterEvent s).turn })

/-! ### Serial transport -/

/-- R367 with the table of R132: what each response class does, and which class a function-code byte has. -/
def Obligations.ResponseClassesSetTheFrameLength : Prop :=
  ∀ (s : State) (h : Nat) (fc : Byte), s.rtuHost = some h →
    let unsupported : State := { s with
      rtuPhase := .idle
      results := s.results.put h
        { status := .errUnsupportedFc, detail := some .none, value := some (fc.setWidth 32) } }
    (∀ i ∈ [Instr.rtuRespReadFc01, .rtuRespReadFc02, .rtuRespReadFc03, .rtuRespReadFc04],
      exec i s = .next { s with rtuNeed := 3, rtuPhase := .len }) ∧
    (∀ i ∈ [Instr.rtuRespWriteFc05, .rtuRespWriteFc06, .rtuRespWriteFc0F, .rtuRespWriteFc10],
      exec i s = .next { s with rtuNeed := 8, rtuPhase := .body }) ∧
    exec (.rtuRespException fc) s = .next { s with rtuNeed := 5, rtuPhase := .body } ∧
    exec (.rtuRespUnsupported fc) s = .next unsupported ∧
    exec (decodeRespFc fc) s = .next
      (if fc.toNat ≥ 0x80 then { s with rtuNeed := 5, rtuPhase := .body }
       else if fc.toNat ∈ [0x01, 0x02, 0x03, 0x04] then { s with rtuNeed := 3, rtuPhase := .len }
       else if fc.toNat ∈ [0x05, 0x06, 0x0F, 0x10] then { s with rtuNeed := 8, rtuPhase := .body }
       else unsupported)

/-- R360: a serial request from an idle framer hands its frame to the `RTU` agent; on a closed stream it is an error; while a
request is in progress it is the fault `F_RTU_BUSY` and writes no result (that the fault is recorded in a next state is the
model's choice, log entry 6). -/
def Obligations.RtuWriteRequestStartsFailsOrFaults : Prop :=
  (∀ a : Byte, decodeCommand (a.setWidth 32 <<< 8 ||| 0x60) = .ok (.rtuWriteRequest a)) ∧
  ∀ (a : Byte) (s : State),
    (s.rtuPhase = .idle → exec (.rtuWriteRequest a) s = .next { s with
      rtuHost := some s.port.host
      rtuAddr := a
      rtuTx := [a] ++ s.port.ops.pdu.marshal ++ le16 (crc16 ([a] ++ s.port.ops.pdu.marshal))
      rtuRx := []
      rtuNeed := 0
      rtuPhase := .send }) ∧
    (s.rtuPhase = .closed → FailsWith (.rtuWriteRequest a) s .errClosed .closed) ∧
    (s.rtuPhase ≠ .idle → s.rtuPhase ≠ .closed →
      exec (.rtuWriteRequest a) s = .next { s with faults := { s.faults with rtuBusy := true } })

/-- R375: closing an idle serial stream closes it whatever result is drawn from `Ok()` and `Err(ERR_IO, DT_IOERR)`; closing a
closed one draws also `Err(ERR_CLOSED, DT_CLOSED)` and changes nothing; every member of the set can be drawn; while a request
is in progress it is the fault `F_RTU_BUSY` (that it is recorded in a next state is the model's choice, log entry 6). -/
def Obligations.RtuCloseDrawsItsResult : Prop :=
  decodeCommand 0x00000061 = .ok .rtuClose ∧
  let first : List Result := [Result.done, Result.err .errIo .ioErr]
  let again : List Result := [Result.done, Result.err .errClosed .closed, Result.err .errIo .ioErr]
  let closed (s : State) (r : Result) : State :=
    { s with serOpen := false, rtuPhase := .closed, results := s.results.put s.port.host r }
  (∀ s : State, s.rtuPhase = .idle → ∃ r ∈ first, exec .rtuClose s = .next (closed s r)) ∧
  (∀ r ∈ first, ∃ d, ∀ s : State, s.port.draw = d → s.rtuPhase = .idle → exec .rtuClose s = .next (closed s r)) ∧
  (∀ s : State, s.rtuPhase = .closed → ∃ r ∈ again, exec .rtuClose s = .next (s.answer r)) ∧
  (∀ r ∈ again, ∃ d, ∀ s : State, s.port.draw = d → s.rtuPhase = .closed → exec .rtuClose s = .next (s.answer r)) ∧
  (∀ s : State, s.rtuPhase ≠ .idle → s.rtuPhase ≠ .closed →
    exec .rtuClose s = .next { s with faults := { s.faults with rtuBusy := true } })

/-- R362 with R85: the outcomes of the send step for every draw of `SerWrite` (that a drawn number beyond the frame's length
takes the whole frame is the model's choice, log entry 14). -/
def Obligations.RtuSendStepFollowsTheWrite : Prop :=
  ∀ (s : State) (h k : Nat) (ioerr : Bool), Healthy s → s.rtuPhase = .send → s.rtuHost = some h →
    let ends (out : Bytes) (r : Result) : Prop :=
      runEvent (.rtuSend k ioerr) s =
        .next { s with serOut := s.serOut ++ out, rtuPhase := .idle, results := s.results.put h r }
    (s.serOpen = false → ends [] (Result.err .errIoWrite .ioErr)) ∧
    (s.serOpen = true → ioerr = true → ends (s.rtuTx.take k) (Result.err .errIoWrite .ioErr)) ∧
    (s.serOpen = true → ioerr = false → k < s.rtuTx.length → ends (s.rtuTx.take k) (Result.err .errIoWrite .short)) ∧
    (s.serOpen = true → ioerr = false → s.rtuTx.length ≤ k → s.rtuAddr = 0 →
      ends s.rtuTx { status := .ok, pdu := some none }) ∧
    (s.serOpen = true → ioerr = false → s.rtuTx.length ≤ k → s.rtuAddr ≠ 0 →
      runEvent (.rtuSend k ioerr) s = .next { s with
        serOut := s.serOut ++ s.rtuTx
        rtuDeadline := s.now + s.cfgRtuReadTimeoutMs.toNat
        rtuNeed := 2
        rtuPhase := .hdr })

/-- R366, R368, R369 and the address check of R367: while the framer reads, with a byte queued exactly one of reading and
expiring is enabled; a read error, an expired deadline and a wrong address end the request with their errors and leave the
unread bytes queued (R361). -/
def Obligations.RtuReadsUntilErrorDeadlineOrMismatch : Prop :=
  ∀ (s : State) (h : Nat), Healthy s → s.rtuPhase.reading = true → s.rtuHost = some h →
    let ends (r : Result) : State := { s with rtuPhase := .idle, results := s.results.put h r }
    (s.serIn ≠ [] → (eventEnabled .rtuRead s = true ↔ eventEnabled .rtuExpire s = false)) ∧
    runEvent .rtuReadError s = .next (ends (Result.err .errIoRead .ioErr)) ∧
    (s.rtuDeadline ≤ s.now → runEvent .rtuExpire s = .next (ends (Result.err .errIoRead .deadline))) ∧
    (∀ b bytes, s.serIn = b :: bytes → s.now < s.rtuDeadline → s.rtuRx.length + 1 ≠ s.rtuNeed →
      runEvent .rtuRead s = .next { s with serIn := bytes, rtuRx := s.rtuRx ++ [b] }) ∧
    (∀ a b bytes, s.rtuPhase = .hdr → s.rtuNeed = 2 → s.rtuRx = [a] → a ≠ s.rtuAddr → s.serIn = b :: bytes →
      s.now < s.rtuDeadline →
      runEvent .rtuRead s = .next { s with
        serIn := bytes
        rtuRx := [a, b]
        rtuPhase := .idle
        results := s.results.put h
          { status := .errAddrMismatch, detail := some .none, value := some (a.setWidth 32) } })

/-- R370: the read that completes a frame checks its CRC over all bytes but the last two; a mismatch is `ERR_BAD_CRC` with
the received and the computed value and the whole frame, and a match returns the RawPDU between address and CRC. -/
def Obligations.RtuFrameCompletesWithCrcCheck : Prop :=
  ∀ (s : State) (h : Nat) (body : Bytes) (lo hi : Byte) (bytes : Bytes),
    Healthy s → s.rtuPhase = .body → s.rtuHost = some h → s.now < s.rtuDeadline →
    s.rtuRx = body ++ [lo] → s.serIn = hi :: bytes → s.rtuNeed = body.length + 2 → 3 ≤ body.length →
    let got : U16 := BitVec.ofNat 16 (hi.toNat * 256 + lo.toNat)
    let ends (r : Result) : Prop :=
      runEvent .rtuRead s = .next { s with
        serIn := bytes, rtuRx := body ++ [lo, hi], rtuPhase := .idle, results := s.results.put h r }
    (got ≠ crc16 body → ends
      { status := .errBadCrc, detail := some .none, got := some got, want := some (crc16 body),
        frame := some (body ++ [lo, hi]) }) ∧
    (got = crc16 body → ∀ a b0 b1 rest, body = a :: b0 :: b1 :: rest →
      ends { status := .ok, pdu := some (some (.raw b0 b1 rest)) })

/-- R366, R367, R370 together: a framer that has sent its request and finds a well-sized response frame queued reads it to the
end and returns its PDU, leaving every later byte queued. -/
def Obligations.RtuReceivesEveryWellSizedResponse : Prop :=
  ∀ (s : State) (h : Nat) (b0 b1 : Byte) (rest bytes : Bytes) (more : List Event),
    let p : Bytes := b0 :: b1 :: rest
    WellSizedResponse p → Healthy s → s.rtuPhase = .hdr → s.rtuNeed = 2 → s.rtuRx = [] → s.rtuHost = some h →
    s.now < s.rtuDeadline → s.serIn = rtuFrame s.rtuAddr p ++ bytes →
    s.script = List.replicate (p.length + 3) .rtuRead ++ more →
    Host.Core.run Sys2Proof.core (p.length + 3) s = .next { s with
      script := more
      serIn := bytes
      rtuRx := rtuFrame s.rtuAddr p
      rtuNeed := p.length + 3
      rtuPhase := .idle
      results := s.results.put h { status := .ok, pdu := some (some (.raw b0 b1 rest)) } }

/-! ### Stream transport -/

/-- R400: a stream request creates a waiter slot with the unit, the PDU, the time of submission and the latched timeout. -/
def Obligations.TcpWriteRequestCreatesAWaiter : Prop :=
  (∀ a : Byte, decodeCommand (a.setWidth 32 <<< 8 ||| 0x70) = .ok (.tcpWriteRequest a)) ∧
  ∀ (u : Byte) (s : State),
    let slot : Waiter :=
      { host := s.port.host, unit := u, req := s.port.ops.pdu, tid := 0, t0 := s.now, tmo := s.cfgTcpReqTimeoutMs,
        signal := none, phase := .check }
    exec (.tcpWriteRequest u) s = .next { s with waiters := s.waiters ++ [slot] }

/-- R402, R404, R405, R406, R430: the step of a waiter in each of its phases (that `F_TID_REUSE` is recorded in a next state
is the model's choice, log entry 6). -/
def Obligations.WaiterStepsFollowTheirPhases : Prop :=
  ∀ (s : State) (c : Nat) (w : Waiter), Healthy s → s.waiters[c]? = some w →
    let becomes (v : Waiter) : List Waiter := s.waiters.set c v
    (w.phase = .check → s.tcpClosed = true → runEvent (.waiterRun c) s = .next { s with
      results := s.results.put w.host
        { status := .errClosed, detail := some .closed, value := some (s.tcpFatal.code.setWidth 32) }
      waiters := becomes { w with phase := .done } }) ∧
    (w.phase = .check → s.tcpClosed = false →
      runEvent (.waiterRun c) s = .next { s with waiters := becomes { w with phase := .alloc } }) ∧
    (w.phase = .alloc → runEvent (.waiterRun c) s = .next { s with
      tcpTid := BitVec.ofNat 16 ((s.tcpTid.toNat + 1) % 65536)
      waiters := becomes { w with tid := s.tcpTid, phase := .reg } }) ∧
    (w.phase = .reg → s.tcpMap.get w.tid.toNat = none → runEvent (.waiterRun c) s = .next { s with
      tcpMap := s.tcpMap.put w.tid.toNat { unit := w.unit, req := w.req, waiter := c }
      tcpQueue := s.tcpQueue ++ [{ tid := w.tid, unit := w.unit, req := w.req }]
      waiters := becomes { w with phase := .wait } }) ∧
    (w.phase = .reg → s.tcpMap.get w.tid.toNat ≠ none →
      runEvent (.waiterRun c) s = .next { s with faults := { s.faults with tidReuse := true } }) ∧
    (∀ r, w.phase = .wait → w.signal = some r → runEvent (.waiterRun c) s = .next { s with
      results := s.results.put w.host r
      waiters := becomes { w with phase := .done } })

/-- R407: at its time a waiting request ends with `ERR_TIMEOUT` and its own record is removed; before that time the step is not
enabled (that a disabled event is a step without effect is the model's choice, log entry 5); with its signal written and its
time up, completion and timeout are both enabled. -/
def Obligations.WaiterTimesOutAndRemovesItsRecord : Prop :=
  ∀ (s : State) (c : Nat) (w : Waiter), Healthy s → s.waiters[c]? = some w → w.phase = .wait →
    let ends (m : Assoc Pending) : State := { s with
      tcpMap := m
      results := s.results.put w.host { status := .errTimeout, detail := some .none }
      waiters := s.waiters.set c { w with phase := .done } }
    (w.t0 + w.tmo.toNat ≤ s.now → ∀ record, s.tcpMap.get w.tid.toNat = some record → record.waiter = c →
      runEvent (.waiterTimeout c) s = .next (ends (s.tcpMap.del w.tid.toNat))) ∧
    (w.t0 + w.tmo.toNat ≤ s.now → (∀ record, s.tcpMap.get w.tid.toNat = some record → record.waiter ≠ c) →
      runEvent (.waiterTimeout c) s = .next (ends s.tcpMap)) ∧
    (s.now < w.t0 + w.tmo.toNat →
      eventEnabled (.waiterTimeout c) s = false ∧ runEvent (.waiterTimeout c) s = .next s) ∧
    (w.t0 + w.tmo.toNat ≤ s.now → w.signal.isSome = true →
      eventEnabled (.waiterRun c) s = true ∧ eventEnabled (.waiterTimeout c) s = true)

/-- R412, R413 with R88: the outcomes of the writer step for every draw of `TcpWrite`; after a write, an error included, the
loop goes on, and a PDU too long for a frame is the fault `F_MBAP_OVERFLOW`. That the item is off the queue in the state that
records the fault is the model's choice, log entry 6, and so is that a drawn number beyond the frame's length takes the whole
frame, log entry 14. -/
def Obligations.WriterWritesTheHeadOfTheQueue : Prop :=
  ∀ (s : State) (k : Nat) (ioerr : Bool) (q : QItem) (rest : List QItem),
    Healthy s → s.twState = .run → s.tcpQueue = q :: rest →
    let p := q.req.marshal
    let frame : Bytes := mbapFrame q.tid q.unit p
    let wrote (out : Bytes) : State := { s with tcpQueue := rest, tcpOut := s.tcpOut ++ out }
    (0xFFFE < p.length → runEvent (.twWrite k ioerr) s =
      .next { s with tcpQueue := rest, faults := { s.faults with mbapOverflow := true } }) ∧
    (p.length ≤ 0xFFFE →
      (s.tcpOpen = false → runEvent (.twWrite k ioerr) s =
        .next (complete q.tid.toNat (Result.err .errIoWrite .ioErr) (wrote []))) ∧
      (s.tcpOpen = true → ioerr = true → runEvent (.twWrite k ioerr) s =
        .next (complete q.tid.toNat (Result.err .errIoWrite .ioErr) (wrote (frame.take k)))) ∧
      (s.tcpOpen = true → ioerr = false → k < frame.length → runEvent (.twWrite k ioerr) s =
        .next (complete q.tid.toNat (Result.err .errIoWrite .short) (wrote (frame.take k)))) ∧
      (s.tcpOpen = true → ioerr = false → frame.length ≤ k → runEvent (.twWrite k ioerr) s = .next (wrote frame)))

/-- R410, R411, R420: a completion takes the record out and signals its waiter, a second one finds no entry and does nothing;
the close sweep signals every registered waiter `ERR_CLOSED` with the fatal cause, empties map and queue, stops both loops
and changes nothing else; a fatal error keeps the first cause and sweeps. -/
def Obligations.CompletionIsOneShotAndCloseSweepsAll : Prop :=
  (∀ (tid : Nat) (r : Result) (s : State), s.tcpMap.get tid = none → complete tid r s = s) ∧
  (∀ (tid : Nat) (r : Result) (s : State) (record : Pending) (w : Waiter),
    s.tcpMap.get tid = some record → s.waiters[record.waiter]? = some w →
    complete tid r s = { s with
      tcpMap := s.tcpMap.del tid, waiters := s.waiters.set record.waiter { w with signal := some r } }) ∧
  (∀ (tid : Nat) (r1 r2 : Result) (s : State), complete tid r2 (complete tid r1 s) = complete tid r1 s) ∧
  (∀ s : State, MapsOk s → PendingOk s →
    let closed : Result :=
      { status := .errClosed, detail := some .closed, value := some (s.tcpFatal.code.setWidth 32) }
    ∃ ws : List Waiter, closeSweep s = { s with
      tcpClosed := true, tcpOpen := false, twState := .stop, trState := .rdStop, tcpMap := [], tcpQueue := [],
      waiters := ws } ∧
    ws.length = s.waiters.length ∧
    ∀ (c : Nat) (w : Waiter), s.waiters[c]? = some w →
      ((∃ e ∈ s.tcpMap, e.2.waiter = c) → ws[c]? = some { w with signal := some closed }) ∧
      ((∀ e ∈ s.tcpMap, e.2.waiter ≠ c) → ws[c]? = some w)) ∧
  (∀ (cause : FatalCause) (s : State),
    fatal cause s = closeSweep { s with tcpFatal := if s.tcpFatal = .none then cause else s.tcpFatal })

/-- R414, R415, R418: header bytes are collected until the seventh; then protocol id, transaction id, unit id and length are
checked in that order; an I/O error or the end of the stream is connection-fatal at any time, with input queued or not. -/
def Obligations.ReaderChecksTheHeaderInOrder : Prop :=
  ∀ s : State, Healthy s → s.tcpOpen = true →
    (s.trState ≠ .rdStop → runEvent .trIoError s = .next (fatal .io s)) ∧
    ∀ (u : Byte) (bytes : Bytes), s.tcpIn = u :: bytes →
      let taken : State := { s with tcpIn := bytes }
      (∀ buf, s.trState = .rdHdr buf → buf.length < 6 →
        runEvent .trRead s = .next { taken with trState := .rdHdr (buf ++ [u]) }) ∧
      ∀ t1 t0 p1 p0 l1 l0 : Byte, s.trState = .rdHdr [t1, t0, p1, p0, l1, l0] →
        let tid : Nat := t1.toNat * 256 + t0.toNat
        let length : Nat := l1.toNat * 256 + l0.toNat
        (¬ (p1 = 0 ∧ p0 = 0) → runEvent .trRead s = .next (fatal .protocolId taken)) ∧
        (p1 = 0 → p0 = 0 →
          (s.tcpMap.get tid = none → runEvent .trRead s = .next (fatal .unknownTid taken)) ∧
          ∀ record, s.tcpMap.get tid = some record →
            (u ≠ record.unit → runEvent .trRead s = .next (fatal .unitMismatch taken)) ∧
            (u = record.unit →
              (length = 0 → runEvent .trRead s = .next (fatal .length taken)) ∧
              (length = 1 → runEvent .trRead s =
                .next { complete tid (Result.err .errDecode .len) taken with trState := .rdHdr [] }) ∧
              (2 ≤ length → runEvent .trRead s =
                .next { taken with trState := .rdBody (BitVec.ofNat 16 tid) u (length - 1) [] })))

/-- R416: body bytes are collected until the number the header announced; then the request is completed with the RawPDU, or
with `Err(ERR_DECODE, DT_LEN)` when there are fewer than two, and the reader waits for the next header. -/
def Obligations.ReaderCompletesTheBody : Prop :=
  ∀ (s : State) (b : Byte) (bytes : Bytes) (tid : U16) (unit : Byte) (need : Nat) (buf : Bytes),
    Healthy s → s.tcpOpen = true → s.tcpIn = b :: bytes → s.trState = .rdBody tid unit need buf →
    let taken : State := { s with tcpIn := bytes }
    (buf.length + 1 < need →
      runEvent .trRead s = .next { taken with trState := .rdBody tid unit need (buf ++ [b]) }) ∧
    (buf.length + 1 = need → need < 2 → runEvent .trRead s =
      .next { complete tid.toNat (Result.err .errDecode .len) taken with trState := .rdHdr [] }) ∧
    (∀ b0 b1 rest, buf.length + 1 = need → buf ++ [b] = b0 :: b1 :: rest → runEvent .trRead s =
      .next { complete tid.toNat { status := .ok, pdu := some (some (.raw b0 b1 rest)) } taken with
        trState := .rdHdr [] })

/-- R414 to R416 and R410 together: a response frame with the id and unit of a registered request is read to its end and
signals exactly the waiter registered under that id, whatever other requests are in flight (R96). -/
def Obligations.ReaderRoutesEachResponseByItsId : Prop :=
  ∀ (s : State) (tid : U16) (record : Pending) (b0 b1 : Byte) (rest bytes : Bytes) (more : List Event),
    let p : Bytes := b0 :: b1 :: rest
    Healthy s → s.tcpOpen = true → s.trState = .rdHdr [] → p.length ≤ 0xFFFE →
    s.tcpMap.get tid.toNat = some record → s.tcpIn = mbapFrame tid record.unit p ++ bytes →
    s.script = List.replicate (p.length + 7) .trRead ++ more →
    Host.Core.run Sys2Proof.core (p.length + 7) s = .next { s with
      script := more
      tcpIn := bytes
      tcpMap := s.tcpMap.del tid.toNat
      waiters := s.waiters.modify record.waiter
        (fun w => { w with signal := some { status := .ok, pdu := some (some (.raw b0 b1 rest)) } }) }

/-- R425: closing an open transport runs the close sweep whatever result is drawn from `Ok()` and `Err(ERR_IO, DT_IOERR)`;
closing a closed one draws also `Err(ERR_CLOSED, DT_CLOSED)` and changes nothing; every member of the set can be drawn. That
the drawn `ERR_CLOSED` carries `value = tcp_fatal` is the model's choice of the table of R461 over R425, which names no value
there, log entry 13. -/
def Obligations.TcpCloseSweepsAndDrawsItsResult : Prop :=
  decodeCommand 0x00000071 = .ok .tcpClose ∧
  let first : List Result := [Result.done, Result.err .errIo .ioErr]
  let again (s : State) : List Result :=
    [Result.done, { status := .errClosed, detail := some .closed, value := some (s.tcpFatal.code.setWidth 32) },
      Result.err .errIo .ioErr]
  (∀ s : State, s.tcpClosed = false → ∃ r ∈ first, exec .tcpClose s = .next ((closeSweep s).reply s.port.host r)) ∧
  (∀ r ∈ first, ∃ d, ∀ s : State, s.port.draw = d → s.tcpClosed = false →
    exec .tcpClose s = .next ((closeSweep s).reply s.port.host r)) ∧
  (∀ s : State, s.tcpClosed = true → ∃ r ∈ again s, exec .tcpClose s = .next (s.answer r)) ∧
  ∀ k < 3, ∃ d, ∀ s : State, s.port.draw = d → s.tcpClosed = true →
    ∃ r, (again s)[k]? = some r ∧ exec .tcpClose s = .next (s.answer r)

/-! ### Invariants -/

/-- The reset state meets the invariant. -/
def Obligations.ResetMeetsTheInvariant : Prop := State.reset.Inv

/-- Every step keeps the finite maps canonical, so that equal maps are equal lists (R52, R61). -/
def Obligations.StepKeepsMapsCanonical : Prop :=
  ∀ s t : State, MapsOk s → step s = .next t → MapsOk t

/-- Every step keeps every pending entry with its own unsignalled waiter, so that no record "can be signaled twice" (R410,
R56, R100). -/
def Obligations.StepKeepsPendingEntriesUnsignalled : Prop :=
  ∀ s t : State, MapsOk s → PendingOk s → step s = .next t → PendingOk t

/-- Every step keeps the serial framer's working registers fitting its phase (R45, R46, R366, R367). -/
def Obligations.StepKeepsSerialRegistersConsistent : Prop :=
  ∀ s t : State, SerialOk s → step s = .next t → SerialOk t

/-- Every step keeps the stream transport's status consistent: the connection, the loops and the closed flag agree (R50, R54,
R55, R57, R58). -/
def Obligations.StepKeepsStreamStatusConsistent : Prop :=
  ∀ s t : State, StreamOk s → step s = .next t → StreamOk t

/-- Every step keeps every PDU value that the block holds or returns valid: "never cause a partial/corrupt value to exist"
(R14, R19). -/
def Obligations.StepKeepsEveryPduValid : Prop :=
  ∀ s t : State, PdusOk s → step s = .next t → PdusOk t

/-- Every step keeps the result ports single-use: a host waits for at most one command, and with an empty port (R61). -/
def Obligations.StepKeepsResultPortsSingleUse : Prop :=
  ∀ s t : State, PortsOk s → step s = .next t → PortsOk t
end

