-- ==== Sys2Proof/Laws/Codec.lean ====
section
/-! SUPPORT. The codec's laws: what each constructor accepts, that what it yields is valid, and the byte and word laws its
layouts rest on. -/

namespace Sys2Proof.Machine

/-! ### Bytes and words -/

@[simp] theorem rd16_be16 (w : U16) : rd16 (w.extractLsb' 8 8) (w.extractLsb' 0 8) = w := by
  apply BitVec.eq_of_getLsbD_eq
  intro i hi
  simp only [rd16, BitVec.getLsbD_append, BitVec.getLsbD_extractLsb']
  by_cases h : i < 8
  · simp [h]
  · have : i - 8 < 8 := by omega
    simp [h, this, show 8 + (i - 8) = i by omega]

theorem be16_rd16 (hi lo : Byte) : be16 (rd16 hi lo) = [hi, lo] := by
  have h1 : (rd16 hi lo).extractLsb' 8 8 = hi := by
    apply BitVec.eq_of_getLsbD_eq
    intro i h
    rw [rd16, BitVec.getLsbD_extractLsb', BitVec.getLsbD_append]
    simp [h]
  have h0 : (rd16 hi lo).extractLsb' 0 8 = lo := by
    apply BitVec.eq_of_getLsbD_eq
    intro i h
    rw [rd16, BitVec.getLsbD_extractLsb', BitVec.getLsbD_append]
    simp [h]
  rw [be16, h1, h0]

/-- `rd16` as a number: 256 times the high byte plus the low byte. -/
theorem rd16_toNat (hi lo : Byte) : (rd16 hi lo).toNat = hi.toNat * 256 + lo.toNat := by
  have := lo.isLt
  rw [rd16, BitVec.toNat_append, ← Nat.shiftLeft_add_eq_or_of_lt this, Nat.shiftLeft_eq]

@[simp] theorem toByte_toNat (b : Byte) : toByte b.toNat = b := by simp [toByte]

@[simp] theorem toU16_toNat (w : U16) : toU16 w.toNat = w := by simp [toU16]

theorem toByte_eq_iff {n : Nat} (h : n < 256) : (toByte n).toNat = n := by simp [toByte, Nat.mod_eq_of_lt h]

theorem toU16_eq_iff {n : Nat} (h : n < 65536) : (toU16 n).toNat = n := by simp [toU16, Nat.mod_eq_of_lt h]

/-- The function-code range of R200. -/
abbrev FcIn (n : Nat) : Prop := 1 ≤ n ∧ n ≤ 0x7F

theorem fcOk_iff (n : Nat) : fcOk n = true ↔ FcIn n := by simp [fcOk]

/-- `ceil(n / 8)` is the least number of bytes that hold `n` bits (R10). -/
theorem packedLen_iff (n m : Nat) : m = packedLen n ↔ n ≤ 8 * m ∧ 8 * m < n + 8 := by
  unfold packedLen; omega

/-! ### Construction: what each constructor yields -/

section Constructors

variable {n0 n1 n2 : Nat} {data : Bytes} {p : PDU}

theorem newRbq_ok : newRbq n0 n1 n2 = .ok p ↔
    FcIn n0 ∧ n1 ≤ 0xFFFF ∧ 1 ≤ n2 ∧ n2 ≤ 2000 ∧ n1 + n2 ≤ 0xFFFF ∧
      p = .rbq (toByte n0) (toU16 n1) (toU16 n2) := by
  unfold newRbq
  repeat' split
  all_goals
    simp only [fcOk_iff, Config.rbCountMin, Config.rbCountMax, Config.rbAddrEnd] at *
    first
    | (simp only [reduceCtorEq, false_iff]; intro h; simp only [FcIn, not_and_or] at *; omega)
    | (simp only [Except.ok.injEq, eq_comm (b := p)]
       exact ⟨fun h => by simp only [FcIn, not_not] at *; simp_all; try omega, by simp_all⟩)

theorem newRbs_ok : newRbs n0 data = .ok p ↔
    FcIn n0 ∧ data.length ≤ 251 ∧ p = .rbs (toByte n0) data := by
  unfold newRbs
  repeat' split
  all_goals
    simp only [fcOk_iff, Config.rbsLenMax] at *
    first
    | (simp only [reduceCtorEq, false_iff]; intro h; simp only [FcIn, not_and_or] at *; omega)
    | (simp only [Except.ok.injEq, eq_comm (b := p)]
       exact ⟨fun h => by simp only [FcIn, not_not] at *; simp_all; try omega, by simp_all⟩)

theorem newSingleBit_ok {mk : Byte → U16 → Bool → PDU} : newSingleBit mk n0 n1 n2 = .ok p ↔
    FcIn n0 ∧ n1 ≤ 0xFFFF ∧ n2 ≤ 1 ∧ p = mk (toByte n0) (toU16 n1) (decide (n2 = 1)) := by
  unfold newSingleBit
  repeat' split
  all_goals
    simp only [fcOk_iff] at *
    first
    | (simp only [reduceCtorEq, false_iff]; intro h; simp only [FcIn, not_and_or] at *; omega)
    | (simp only [Except.ok.injEq, eq_comm (b := p)]
       exact ⟨fun h => by simp only [FcIn, not_not] at *; simp_all; try omega, by simp_all⟩)

theorem newWmbq_ok : newWmbq n0 n1 n2 data = .ok p ↔
    FcIn n0 ∧ n1 ≤ 0xFFFF ∧ n2 ≤ 0x7B0 ∧ data.length = packedLen n2 ∧
      p = .wmbq (toByte n0) (toU16 n1) (toU16 n2) data := by
  unfold newWmbq
  repeat' split
  all_goals
    simp only [fcOk_iff, Config.wmbCountMax] at *
    first
    | (simp only [reduceCtorEq, false_iff]; intro h; simp only [FcIn, not_and_or] at *; omega)
    | (simp only [Except.ok.injEq, eq_comm (b := p)]
       exact ⟨fun h => by simp only [FcIn, not_not] at *; simp_all; try omega, by simp_all⟩)

theorem newEcho_ok {mk : Byte → U16 → U16 → PDU} : newEcho mk n0 n1 n2 = .ok p ↔
    FcIn n0 ∧ n1 ≤ 0xFFFF ∧ n2 ≤ 0xFFFF ∧ p = mk (toByte n0) (toU16 n1) (toU16 n2) := by
  unfold newEcho
  repeat' split
  all_goals
    simp only [fcOk_iff] at *
    first
    | (simp only [reduceCtorEq, false_iff]; intro h; simp only [FcIn, not_and_or] at *; omega)
    | (simp only [Except.ok.injEq, eq_comm (b := p)]
       exact ⟨fun h => by simp only [FcIn, not_not] at *; simp_all; try omega, by simp_all⟩)

theorem newRrq_ok : newRrq n0 n1 n2 = .ok p ↔
    FcIn n0 ∧ n1 + n2 ≤ 0xFF ∧ n2 ≤ 125 ∧ p = .rrq (toByte n0) (toU16 n1) (toU16 n2) := by
  unfold newRrq
  repeat' split
  all_goals
    simp only [fcOk_iff, Config.rrAddrLimit, Config.maxPdu] at *
    first
    | (simp only [reduceCtorEq, false_iff]; intro h; simp only [FcIn, not_and_or] at *; omega)
    | (simp only [Except.ok.injEq, eq_comm (b := p)]
       exact ⟨fun h => by simp only [FcIn, not_not] at *; simp_all; try omega, by simp_all⟩)

theorem newRrs_ok : newRrs n0 data = .ok p ↔
    FcIn n0 ∧ data.length % 2 = 0 ∧ data.length ≤ 250 ∧ p = .rrs (toByte n0) data := by
  unfold newRrs
  repeat' split
  all_goals
    simp only [fcOk_iff, Config.rrsLenMax] at *
    first
    | (simp only [reduceCtorEq, false_iff]; intro h; simp only [FcIn, not_and_or] at *; omega)
    | (simp only [Except.ok.injEq, eq_comm (b := p)]
       exact ⟨fun h => by simp only [FcIn, not_not] at *; simp_all; try omega, by simp_all⟩)

theorem newSingleRegister_ok {mk : Byte → U16 → Bytes → PDU} : newSingleRegister mk n0 n1 data = .ok p ↔
    FcIn n0 ∧ n1 ≤ 0xFFFF ∧ data.length = 2 ∧ p = mk (toByte n0) (toU16 n1) data := by
  unfold newSingleRegister
  repeat' split
  all_goals
    simp only [fcOk_iff] at *
    first
    | (simp only [reduceCtorEq, false_iff]; intro h; simp only [FcIn, not_and_or] at *; omega)
    | (simp only [Except.ok.injEq, eq_comm (b := p)]
       exact ⟨fun h => by simp only [FcIn, not_not] at *; simp_all; try omega, by simp_all⟩)

theorem newWmrq_ok : newWmrq n0 n1 n2 data = .ok p ↔
    FcIn n0 ∧ n1 ≤ 0xFFFF ∧ 1 ≤ n2 ∧ n2 ≤ 0x7B ∧ data.length = 2 * n2 ∧
      p = .wmrq (toByte n0) (toU16 n1) (toU16 n2) data := by
  unfold newWmrq
  repeat' split
  all_goals
    simp only [fcOk_iff, Config.wmrCountMin, Config.wmrCountMax] at *
    first
    | (simp only [reduceCtorEq, false_iff]; intro h; simp only [FcIn, not_and_or] at *; omega)
    | (simp only [Except.ok.injEq, eq_comm (b := p)]
       exact ⟨fun h => by simp only [FcIn, not_not] at *; simp_all; try omega, by simp_all⟩)

theorem newExc_ok : newExc n0 n1 = .ok p ↔
    0x80 < n0 ∧ n0 ≤ 0xFF ∧ 1 ≤ n1 ∧ n1 ≤ 0xFF ∧ p = .exc (toByte n0) (toByte n1) := by
  unfold newExc
  repeat' split
  · simp only [reduceCtorEq, false_iff]; omega
  · simp only [reduceCtorEq, false_iff]; omega
  · simp only [Except.ok.injEq, eq_comm (b := p)]
    exact ⟨fun h => ⟨by omega, by omega, by omega, by omega, h⟩, fun h => h.2.2.2.2⟩

theorem newRaw_ok : newRaw data = .ok p ↔ ∃ b0 b1 rest, data = b0 :: b1 :: rest ∧ p = .raw b0 b1 rest := by
  unfold newRaw
  split <;> simp_all [eq_comm]

end Constructors

/-! ### Wire bytes -/

/-- Every PDU marshals to its function code and then its payload (R120, R339). -/
theorem PDU.marshal_head (p : PDU) : ∃ rest, p.marshal = p.functionCode :: rest := by
  cases p <;> exact ⟨_, rfl⟩


/-! ### Validity, and that decoding yields valid values only -/

/-- A construction that ends in success yields something. -/
theorem isOk_iff {r : Except Detail PDU} : r.isOk = true ↔ ∃ p, r = .ok p := by
  cases r <;> simp [Except.isOk, Except.toBool]

section Validity

variable (fc b0 b1 : Byte) (x y : U16) (value : Bool) (bytes : Bytes)

theorem valid_rbq : (PDU.rbq fc x y).valid = true ↔
    FcIn fc.toNat ∧ 1 ≤ y.toNat ∧ y.toNat ≤ 2000 ∧ x.toNat + y.toNat ≤ 0xFFFF := by
  have := x.isLt
  simp only [PDU.valid, isOk_iff, newRbq_ok]
  exact ⟨fun ⟨_, h1, _, h2, h3, h4, _⟩ => ⟨h1, h2, h3, h4⟩, fun ⟨h1, h2, h3, h4⟩ => ⟨_, h1, by omega, h2, h3, h4, rfl⟩⟩

theorem valid_rbs : (PDU.rbs fc bytes).valid = true ↔ FcIn fc.toNat ∧ bytes.length ≤ 251 := by
  simp [PDU.valid, isOk_iff, newRbs_ok]

theorem valid_wsbq : (PDU.wsbq fc x value).valid = true ↔ FcIn fc.toNat := by
  have := x.isLt
  simp only [PDU.valid, isOk_iff, newWsbq, newSingleBit_ok]
  exact ⟨fun ⟨_, h, _⟩ => h, fun h => ⟨_, h, by omega, by cases value <;> simp, rfl⟩⟩

theorem valid_wsbs : (PDU.wsbs fc x value).valid = true ↔ FcIn fc.toNat := by
  have := x.isLt
  simp only [PDU.valid, isOk_iff, newWsbs, newSingleBit_ok]
  exact ⟨fun ⟨_, h, _⟩ => h, fun h => ⟨_, h, by omega, by cases value <;> simp, rfl⟩⟩

theorem valid_wmbq : (PDU.wmbq fc x y bytes).valid = true ↔
    FcIn fc.toNat ∧ y.toNat ≤ 0x7B0 ∧ bytes.length = packedLen y.toNat := by
  have := x.isLt
  simp only [PDU.valid, isOk_iff, newWmbq_ok]
  exact ⟨fun ⟨_, h1, _, h2, h3, _⟩ => ⟨h1, h2, h3⟩, fun ⟨h1, h2, h3⟩ => ⟨_, h1, by omega, h2, h3, rfl⟩⟩

theorem valid_wmbs : (PDU.wmbs fc x y).valid = true ↔ FcIn fc.toNat := by
  have := x.isLt; have := y.isLt
  simp only [PDU.valid, isOk_iff, newWmbs, newEcho_ok]
  exact ⟨fun ⟨_, h, _⟩ => h, fun h => ⟨_, h, by omega, by omega, rfl⟩⟩

theorem valid_rrq : (PDU.rrq fc x y).valid = true ↔
    FcIn fc.toNat ∧ x.toNat + y.toNat ≤ 0xFF ∧ y.toNat ≤ 125 := by
  simp [PDU.valid, isOk_iff, newRrq_ok]

theorem valid_rrs : (PDU.rrs fc bytes).valid = true ↔ FcIn fc.toNat ∧ bytes.length % 2 = 0 ∧ bytes.length ≤ 250 := by
  simp [PDU.valid, isOk_iff, newRrs_ok]

theorem valid_wsrq : (PDU.wsrq fc x bytes).valid = true ↔ FcIn fc.toNat ∧ bytes.length = 2 := by
  have := x.isLt
  simp only [PDU.valid, isOk_iff, newWsrq, newSingleRegister_ok]
  exact ⟨fun ⟨_, h1, _, h2, _⟩ => ⟨h1, h2⟩, fun ⟨h1, h2⟩ => ⟨_, h1, by omega, h2, rfl⟩⟩

theorem valid_wsrs : (PDU.wsrs fc x bytes).valid = true ↔ FcIn fc.toNat ∧ bytes.length = 2 := by
  have := x.isLt
  simp only [PDU.valid, isOk_iff, newWsrs, newSingleRegister_ok]
  exact ⟨fun ⟨_, h1, _, h2, _⟩ => ⟨h1, h2⟩, fun ⟨h1, h2⟩ => ⟨_, h1, by omega, h2, rfl⟩⟩

theorem valid_wmrq : (PDU.wmrq fc x y bytes).valid = true ↔
    FcIn fc.toNat ∧ 1 ≤ y.toNat ∧ y.toNat ≤ 0x7B ∧ bytes.length = 2 * y.toNat := by
  have := x.isLt
  simp only [PDU.valid, isOk_iff, newWmrq_ok]
  exact ⟨fun ⟨_, h1, _, h2, h3, h4, _⟩ => ⟨h1, h2, h3, h4⟩, fun ⟨h1, h2, h3, h4⟩ => ⟨_, h1, by omega, h2, h3, h4, rfl⟩⟩

theorem valid_wmrs : (PDU.wmrs fc x y).valid = true ↔ FcIn fc.toNat := by
  have := x.isLt; have := y.isLt
  simp only [PDU.valid, isOk_iff, newWmrs, newEcho_ok]
  exact ⟨fun ⟨_, h, _⟩ => h, fun h => ⟨_, h, by omega, by omega, rfl⟩⟩

theorem valid_exc : (PDU.exc b0 b1).valid = true ↔ 0x80 < b0.toNat ∧ 1 ≤ b1.toNat := by
  have := b0.isLt; have := b1.isLt
  simp only [PDU.valid, isOk_iff, newExc_ok]
  exact ⟨fun ⟨_, h1, _, h2, _⟩ => ⟨h1, h2⟩, fun ⟨h1, h2⟩ => ⟨_, h1, by omega, h2, by omega, rfl⟩⟩

theorem valid_raw : (PDU.raw b0 b1 bytes).valid = true := rfl

end Validity

section Yields

variable {n0 n1 n2 : Nat} {data : Bytes} {p : PDU}

theorem newRbq_valid (h : newRbq n0 n1 n2 = .ok p) : p.variant = .rbq ∧ p.valid = true := by
  obtain ⟨⟨_, _⟩, _, _, _, _, rfl⟩ := newRbq_ok.1 h
  have hn0 := toByte_eq_iff (n := n0) (by omega)
  have hn1 := toU16_eq_iff (n := n1) (by omega)
  have hn2 := toU16_eq_iff (n := n2) (by omega)
  refine ⟨rfl, (valid_rbq ..).2 ?_⟩
  simp only [FcIn, hn0, hn1, hn2]
  omega

theorem newRbs_valid (h : newRbs n0 data = .ok p) : p.variant = .rbs ∧ p.valid = true := by
  obtain ⟨⟨_, _⟩, _, rfl⟩ := newRbs_ok.1 h
  have hn0 := toByte_eq_iff (n := n0) (by omega)
  refine ⟨rfl, (valid_rbs ..).2 ?_⟩
  simp only [FcIn, hn0]
  omega

theorem newWsbq_valid (h : newWsbq n0 n1 n2 = .ok p) : p.variant = .wsbq ∧ p.valid = true := by
  obtain ⟨⟨_, _⟩, _, _, rfl⟩ := newSingleBit_ok.1 h
  have hn0 := toByte_eq_iff (n := n0) (by omega)
  refine ⟨rfl, (valid_wsbq ..).2 ?_⟩
  simp only [FcIn, hn0]
  omega

theorem newWsbs_valid (h : newWsbs n0 n1 n2 = .ok p) : p.variant = .wsbs ∧ p.valid = true := by
  obtain ⟨⟨_, _⟩, _, _, rfl⟩ := newSingleBit_ok.1 h
  have hn0 := toByte_eq_iff (n := n0) (by omega)
  refine ⟨rfl, (valid_wsbs ..).2 ?_⟩
  simp only [FcIn, hn0]
  omega

theorem newWmbq_valid (h : newWmbq n0 n1 n2 data = .ok p) : p.variant = .wmbq ∧ p.valid = true := by
  obtain ⟨⟨_, _⟩, _, _, _, rfl⟩ := newWmbq_ok.1 h
  have hn0 := toByte_eq_iff (n := n0) (by omega)
  have hn2 := toU16_eq_iff (n := n2) (by omega)
  refine ⟨rfl, (valid_wmbq ..).2 ?_⟩
  simp only [FcIn, hn0, hn2]
  omega

theorem newWmbs_valid (h : newWmbs n0 n1 n2 = .ok p) : p.variant = .wmbs ∧ p.valid = true := by
  obtain ⟨⟨_, _⟩, _, _, rfl⟩ := newEcho_ok.1 h
  have hn0 := toByte_eq_iff (n := n0) (by omega)
  refine ⟨rfl, (valid_wmbs ..).2 ?_⟩
  simp only [FcIn, hn0]
  omega

theorem newRrq_valid (h : newRrq n0 n1 n2 = .ok p) : p.variant = .rrq ∧ p.valid = true := by
  obtain ⟨⟨_, _⟩, _, _, rfl⟩ := newRrq_ok.1 h
  have hn0 := toByte_eq_iff (n := n0) (by omega)
  have hn1 := toU16_eq_iff (n := n1) (by omega)
  have hn2 := toU16_eq_iff (n := n2) (by omega)
  refine ⟨rfl, (valid_rrq ..).2 ?_⟩
  simp only [FcIn, hn0, hn1, hn2]
  omega

theorem newRrs_valid (h : newRrs n0 data = .ok p) : p.variant = .rrs ∧ p.valid = true := by
  obtain ⟨⟨_, _⟩, _, _, rfl⟩ := newRrs_ok.1 h
  have hn0 := toByte_eq_iff (n := n0) (by omega)
  refine ⟨rfl, (valid_rrs ..).2 ?_⟩
  simp only [FcIn, hn0]
  omega

theorem newWsrq_valid (h : newWsrq n0 n1 data = .ok p) : p.variant = .wsrq ∧ p.valid = true := by
  obtain ⟨⟨_, _⟩, _, _, rfl⟩ := newSingleRegister_ok.1 h
  have hn0 := toByte_eq_iff (n := n0) (by omega)
  refine ⟨rfl, (valid_wsrq ..).2 ?_⟩
  simp only [FcIn, hn0]
  omega

theorem newWsrs_valid (h : newWsrs n0 n1 data = .ok p) : p.variant = .wsrs ∧ p.valid = true := by
  obtain ⟨⟨_, _⟩, _, _, rfl⟩ := newSingleRegister_ok.1 h
  have hn0 := toByte_eq_iff (n := n0) (by omega)
  refine ⟨rfl, (valid_wsrs ..).2 ?_⟩
  simp only [FcIn, hn0]
  omega

theorem newWmrq_valid (h : newWmrq n0 n1 n2 data = .ok p) : p.variant = .wmrq ∧ p.valid = true := by
  obtain ⟨⟨_, _⟩, _, _, _, _, rfl⟩ := newWmrq_ok.1 h
  have hn0 := toByte_eq_iff (n := n0) (by omega)
  have hn2 := toU16_eq_iff (n := n2) (by omega)
  refine ⟨rfl, (valid_wmrq ..).2 ?_⟩
  simp only [FcIn, hn0, hn2]
  omega

theorem newWmrs_valid (h : newWmrs n0 n1 n2 = .ok p) : p.variant = .wmrs ∧ p.valid = true := by
  obtain ⟨⟨_, _⟩, _, _, rfl⟩ := newEcho_ok.1 h
  have hn0 := toByte_eq_iff (n := n0) (by omega)
  refine ⟨rfl, (valid_wmrs ..).2 ?_⟩
  simp only [FcIn, hn0]
  omega

theorem newExc_valid (h : newExc n0 n1 = .ok p) : p.variant = .exc ∧ p.valid = true := by
  obtain ⟨_, _, _, _, rfl⟩ := newExc_ok.1 h
  have h0 := toByte_eq_iff (n := n0) (by omega)
  have h1 := toByte_eq_iff (n := n1) (by omega)
  refine ⟨rfl, (valid_exc ..).2 ?_⟩
  rw [h0, h1]
  omega

theorem newRaw_valid (h : newRaw data = .ok p) : p.variant = .raw ∧ p.valid = true := by
  obtain ⟨b0, b1, rest, -, rfl⟩ := newRaw_ok.1 h
  exact ⟨rfl, rfl⟩

/-- What a decoder yields has its tag and is valid (R225, R19). -/
theorem unmarshalAs_valid {v : Variant} (h : unmarshalAs v data = .ok p) : p.variant = v ∧ p.valid = true := by
  cases v <;> simp only [unmarshalAs, unmarshalTwoWords, unmarshalCounted, unmarshalSingleBit, unmarshalMultiple,
    unmarshalSingleRegister, unmarshalExcBytes] at h
  all_goals
    repeat' split at h
    all_goals first
      | contradiction
      | exact newRbq_valid h
      | exact newRbs_valid h
      | exact newWsbq_valid h
      | exact newWsbs_valid h
      | exact newWmbq_valid h
      | exact newWmbs_valid h
      | exact newRrq_valid h
      | exact newRrs_valid h
      | exact newWsrq_valid h
      | exact newWsrs_valid h
      | exact newWmrq_valid h
      | exact newWmrs_valid h
      | exact newExc_valid h
      | exact newRaw_valid h

/-- What `DECODE_RESPONSE` yields is valid. -/
theorem decodeResponsePdu_valid {request response : PDU} (h : decodeResponsePdu request response = .ok p) :
    p.valid = true := by
  unfold decodeResponsePdu at h
  split at h
  · exact nomatch h
  · split at h <;> exact (unmarshalAs_valid h).2

end Yields

end Sys2Proof.Machine
end

