-- ==== Sys2Proof/Laws/Assoc.lean ====
section
/-! SUPPORT. The laws of finite maps: lookup after insertion and deletion, and that both keep the canonical form. -/

namespace Sys2Proof.Machine

variable {α : Type}

@[simp] theorem Assoc.get_nil (k : Nat) : Assoc.get ([] : Assoc α) k = none := rfl

@[simp] theorem Assoc.wf_nil : Assoc.wf ([] : Assoc α) = true := rfl

/-- The canonical form, unfolded once. -/
theorem Assoc.wf_cons (k : Nat) (v : α) (rest : Assoc α) :
    Assoc.wf ((k, v) :: rest) = true ↔ (∀ e ∈ rest, k < e.1) ∧ Assoc.wf rest = true := by
  simp [Assoc.wf, List.all_eq_true]

/-- Reading a key that was just written. -/
@[simp] theorem Assoc.get_put_same (m : Assoc α) (k : Nat) (v : α) : (m.put k v).get k = some v := by
  induction m with
  | nil => simp [Assoc.put, Assoc.get]
  | cons e rest ih =>
    obtain ⟨k', v'⟩ := e
    simp only [Assoc.put]
    split
    · simp [Assoc.get]
    · split
      · simp [Assoc.get]
      · rename_i h; simp [Assoc.get, Ne.symm h, ih]

/-- Reading any other key. -/
theorem Assoc.get_put_other (m : Assoc α) {k k' : Nat} (v : α) (h : k' ≠ k) : (m.put k v).get k' = m.get k' := by
  induction m with
  | nil => simp [Assoc.put, Assoc.get, Ne.symm h]
  | cons e rest ih =>
    obtain ⟨k0, v0⟩ := e
    simp only [Assoc.put]
    split
    · simp [Assoc.get, Ne.symm h]
    · split
      · rename_i h0; subst h0; simp [Assoc.get, Ne.symm h]
      · simp [Assoc.get, ih]

/-- Lookup after insertion. -/
theorem Assoc.get_put (m : Assoc α) (k k' : Nat) (v : α) :
    (m.put k v).get k' = if k' = k then some v else m.get k' := by
  split
  · rename_i h; subst h; simp
  · rename_i h; exact Assoc.get_put_other m v h

/-- What an insertion leaves in the list. -/
theorem Assoc.mem_put (m : Assoc α) (k : Nat) (v : α) (e : Nat × α) (h : e ∈ m.put k v) : e = (k, v) ∨ e ∈ m := by
  induction m with
  | nil => simpa [Assoc.put] using h
  | cons e0 rest ih =>
    obtain ⟨k0, v0⟩ := e0
    simp only [Assoc.put] at h
    split at h
    · simpa using h
    · split at h
      · rcases List.mem_cons.1 h with h | h
        · exact .inl h
        · exact .inr (List.mem_cons_of_mem _ h)
      · rcases List.mem_cons.1 h with h | h
        · exact .inr (h ▸ List.mem_cons_self ..)
        · rcases ih h with h | h
          · exact .inl h
          · exact .inr (List.mem_cons_of_mem _ h)

/-- What a deletion leaves in the list. -/
@[simp] theorem Assoc.mem_del (m : Assoc α) (k : Nat) (e : Nat × α) : e ∈ m.del k ↔ e ∈ m ∧ e.1 ≠ k := by
  simp [Assoc.del]

/-- Reading a deleted key. -/
@[simp] theorem Assoc.get_del_same (m : Assoc α) (k : Nat) : (m.del k).get k = none := by
  induction m with
  | nil => rfl
  | cons e rest ih =>
    obtain ⟨k0, v0⟩ := e
    by_cases h : k0 = k
    · simpa [Assoc.del, h] using ih
    · simpa [Assoc.del, h, Assoc.get] using ih

/-- Reading any other key. -/
theorem Assoc.get_del_other (m : Assoc α) {k k' : Nat} (h : k' ≠ k) : (m.del k).get k' = m.get k' := by
  induction m with
  | nil => rfl
  | cons e rest ih =>
    obtain ⟨k0, v0⟩ := e
    by_cases h0 : k0 = k
    · subst h0; simpa [Assoc.del, Assoc.get, Ne.symm h] using ih
    · by_cases h1 : k0 = k'
      · simp [Assoc.del, Assoc.get, h1, h]
      · simpa [Assoc.del, h0, Assoc.get, h1] using ih

/-- Lookup after deletion. -/
theorem Assoc.get_del (m : Assoc α) (k k' : Nat) : (m.del k).get k' = if k' = k then none else m.get k' := by
  split
  · rename_i h; subst h; simp
  · rename_i h; exact Assoc.get_del_other m h

/-- A value found is listed. -/
theorem Assoc.mem_of_get (m : Assoc α) {k : Nat} {v : α} (h : m.get k = some v) : (k, v) ∈ m := by
  induction m with
  | nil => simp at h
  | cons e rest ih =>
    obtain ⟨k0, v0⟩ := e
    simp only [Assoc.get] at h
    split at h
    · rename_i h0; subst h0; cases h; exact List.mem_cons_self ..
    · exact List.mem_cons_of_mem _ (ih h)

/-- In a canonical map a listed value is found. -/
theorem Assoc.get_of_mem (m : Assoc α) (hw : m.wf = true) {k : Nat} {v : α} (h : (k, v) ∈ m) : m.get k = some v := by
  induction m with
  | nil => simp at h
  | cons e rest ih =>
    obtain ⟨k0, v0⟩ := e
    obtain ⟨hlt, hrest⟩ := (Assoc.wf_cons ..).1 hw
    rcases List.mem_cons.1 h with h | h
    · cases h; simp [Assoc.get]
    · have := hlt _ h
      simp [Assoc.get, Nat.ne_of_lt this, ih hrest h]

/-- Insertion keeps the canonical form. -/
theorem Assoc.wf_put (m : Assoc α) (k : Nat) (v : α) (hw : m.wf = true) : (m.put k v).wf = true := by
  induction m with
  | nil => simp [Assoc.put, Assoc.wf]
  | cons e rest ih =>
    obtain ⟨k0, v0⟩ := e
    obtain ⟨hlt, hrest⟩ := (Assoc.wf_cons ..).1 hw
    simp only [Assoc.put]
    split
    · rename_i h
      refine (Assoc.wf_cons ..).2 ⟨fun e he => ?_, hw⟩
      rcases List.mem_cons.1 he with rfl | he
      · exact h
      · exact Nat.lt_trans h (hlt e he)
    · split
      · rename_i h; subst h; exact (Assoc.wf_cons ..).2 ⟨hlt, hrest⟩
      · refine (Assoc.wf_cons ..).2 ⟨fun e he => ?_, ih hrest⟩
        rcases Assoc.mem_put _ _ _ _ he with rfl | he
        · simp only; omega
        · exact hlt e he

/-- Deletion keeps the canonical form. -/
theorem Assoc.wf_del (m : Assoc α) (k : Nat) (hw : m.wf = true) : (m.del k).wf = true := by
  induction m with
  | nil => rfl
  | cons e rest ih =>
    obtain ⟨k0, v0⟩ := e
    obtain ⟨hlt, hrest⟩ := (Assoc.wf_cons ..).1 hw
    by_cases h : k0 = k
    · have : Assoc.del ((k0, v0) :: rest) k = Assoc.del rest k := by simp [Assoc.del, h]
      rw [this]; exact ih hrest
    · have : Assoc.del ((k0, v0) :: rest) k = (k0, v0) :: Assoc.del rest k := by simp [Assoc.del, h]
      rw [this]
      exact (Assoc.wf_cons ..).2 ⟨fun e he => hlt e ((Assoc.mem_del ..).1 he).1, ih hrest⟩

end Sys2Proof.Machine
end

