-- ==== Sys2Proof/Laws/State.lean ====
section
/-! SUPPORT. One lemma per field per named update of State. -/

namespace Sys2Proof.Machine

variable (s : State)

/-- A result of the command being executed goes to the issuing host's port. -/
@[simp] theorem State.answer_eq (r : Result) : s.answer r = s.reply s.port.host r := rfl

/-! ### `State.reply` -/

@[simp] theorem State.reply_crc (h : Nat) (r : Result) : (s.reply h r).crc = s.crc := rfl
@[simp] theorem State.reply_fbBuf (h : Nat) (r : Result) : (s.reply h r).fbBuf = s.fbBuf := rfl
@[simp] theorem State.reply_cfgRtuReadTimeoutMs (h : Nat) (r : Result) : (s.reply h r).cfgRtuReadTimeoutMs = s.cfgRtuReadTimeoutMs := rfl
@[simp] theorem State.reply_cfgTcpReqTimeoutMs (h : Nat) (r : Result) : (s.reply h r).cfgTcpReqTimeoutMs = s.cfgTcpReqTimeoutMs := rfl
@[simp] theorem State.reply_rtuPhase (h : Nat) (r : Result) : (s.reply h r).rtuPhase = s.rtuPhase := rfl
@[simp] theorem State.reply_rtuHost (h : Nat) (r : Result) : (s.reply h r).rtuHost = s.rtuHost := rfl
@[simp] theorem State.reply_rtuAddr (h : Nat) (r : Result) : (s.reply h r).rtuAddr = s.rtuAddr := rfl
@[simp] theorem State.reply_rtuTx (h : Nat) (r : Result) : (s.reply h r).rtuTx = s.rtuTx := rfl
@[simp] theorem State.reply_rtuRx (h : Nat) (r : Result) : (s.reply h r).rtuRx = s.rtuRx := rfl
@[simp] theorem State.reply_rtuNeed (h : Nat) (r : Result) : (s.reply h r).rtuNeed = s.rtuNeed := rfl
@[simp] theorem State.reply_rtuDeadline (h : Nat) (r : Result) : (s.reply h r).rtuDeadline = s.rtuDeadline := rfl
@[simp] theorem State.reply_serOut (h : Nat) (r : Result) : (s.reply h r).serOut = s.serOut := rfl
@[simp] theorem State.reply_serIn (h : Nat) (r : Result) : (s.reply h r).serIn = s.serIn := rfl
@[simp] theorem State.reply_serOpen (h : Nat) (r : Result) : (s.reply h r).serOpen = s.serOpen := rfl
@[simp] theorem State.reply_tcpClosed (h : Nat) (r : Result) : (s.reply h r).tcpClosed = s.tcpClosed := rfl
@[simp] theorem State.reply_tcpTid (h : Nat) (r : Result) : (s.reply h r).tcpTid = s.tcpTid := rfl
@[simp] theorem State.reply_tcpMap (h : Nat) (r : Result) : (s.reply h r).tcpMap = s.tcpMap := rfl
@[simp] theorem State.reply_tcpQueue (h : Nat) (r : Result) : (s.reply h r).tcpQueue = s.tcpQueue := rfl
@[simp] theorem State.reply_twState (h : Nat) (r : Result) : (s.reply h r).twState = s.twState := rfl
@[simp] theorem State.reply_trState (h : Nat) (r : Result) : (s.reply h r).trState = s.trState := rfl
@[simp] theorem State.reply_waiters (h : Nat) (r : Result) : (s.reply h r).waiters = s.waiters := rfl
@[simp] theorem State.reply_tcpOut (h : Nat) (r : Result) : (s.reply h r).tcpOut = s.tcpOut := rfl
@[simp] theorem State.reply_tcpIn (h : Nat) (r : Result) : (s.reply h r).tcpIn = s.tcpIn := rfl
@[simp] theorem State.reply_tcpOpen (h : Nat) (r : Result) : (s.reply h r).tcpOpen = s.tcpOpen := rfl
@[simp] theorem State.reply_tcpFatal (h : Nat) (r : Result) : (s.reply h r).tcpFatal = s.tcpFatal := rfl
@[simp] theorem State.reply_now (h : Nat) (r : Result) : (s.reply h r).now = s.now := rfl
@[simp] theorem State.reply_faults (h : Nat) (r : Result) : (s.reply h r).faults = s.faults := rfl
@[simp] theorem State.reply_results (h : Nat) (r : Result) : (s.reply h r).results = s.results.put h r := rfl
@[simp] theorem State.reply_port (h : Nat) (r : Result) : (s.reply h r).port = s.port := rfl
@[simp] theorem State.reply_script (h : Nat) (r : Result) : (s.reply h r).script = s.script := rfl
@[simp] theorem State.reply_turn (h : Nat) (r : Result) : (s.reply h r).turn = s.turn := rfl

/-! ### `State.raise` -/

@[simp] theorem State.raise_crc (f : Fault) : (s.raise f).crc = s.crc := rfl
@[simp] theorem State.raise_fbBuf (f : Fault) : (s.raise f).fbBuf = s.fbBuf := rfl
@[simp] theorem State.raise_cfgRtuReadTimeoutMs (f : Fault) : (s.raise f).cfgRtuReadTimeoutMs = s.cfgRtuReadTimeoutMs := rfl
@[simp] theorem State.raise_cfgTcpReqTimeoutMs (f : Fault) : (s.raise f).cfgTcpReqTimeoutMs = s.cfgTcpReqTimeoutMs := rfl
@[simp] theorem State.raise_rtuPhase (f : Fault) : (s.raise f).rtuPhase = s.rtuPhase := rfl
@[simp] theorem State.raise_rtuHost (f : Fault) : (s.raise f).rtuHost = s.rtuHost := rfl
@[simp] theorem State.raise_rtuAddr (f : Fault) : (s.raise f).rtuAddr = s.rtuAddr := rfl
@[simp] theorem State.raise_rtuTx (f : Fault) : (s.raise f).rtuTx = s.rtuTx := rfl
@[simp] theorem State.raise_rtuRx (f : Fault) : (s.raise f).rtuRx = s.rtuRx := rfl
@[simp] theorem State.raise_rtuNeed (f : Fault) : (s.raise f).rtuNeed = s.rtuNeed := rfl
@[simp] theorem State.raise_rtuDeadline (f : Fault) : (s.raise f).rtuDeadline = s.rtuDeadline := rfl
@[simp] theorem State.raise_serOut (f : Fault) : (s.raise f).serOut = s.serOut := rfl
@[simp] theorem State.raise_serIn (f : Fault) : (s.raise f).serIn = s.serIn := rfl
@[simp] theorem State.raise_serOpen (f : Fault) : (s.raise f).serOpen = s.serOpen := rfl
@[simp] theorem State.raise_tcpClosed (f : Fault) : (s.raise f).tcpClosed = s.tcpClosed := rfl
@[simp] theorem State.raise_tcpTid (f : Fault) : (s.raise f).tcpTid = s.tcpTid := rfl
@[simp] theorem State.raise_tcpMap (f : Fault) : (s.raise f).tcpMap = s.tcpMap := rfl
@[simp] theorem State.raise_tcpQueue (f : Fault) : (s.raise f).tcpQueue = s.tcpQueue := rfl
@[simp] theorem State.raise_twState (f : Fault) : (s.raise f).twState = s.twState := rfl
@[simp] theorem State.raise_trState (f : Fault) : (s.raise f).trState = s.trState := rfl
@[simp] theorem State.raise_waiters (f : Fault) : (s.raise f).waiters = s.waiters := rfl
@[simp] theorem State.raise_tcpOut (f : Fault) : (s.raise f).tcpOut = s.tcpOut := rfl
@[simp] theorem State.raise_tcpIn (f : Fault) : (s.raise f).tcpIn = s.tcpIn := rfl
@[simp] theorem State.raise_tcpOpen (f : Fault) : (s.raise f).tcpOpen = s.tcpOpen := rfl
@[simp] theorem State.raise_tcpFatal (f : Fault) : (s.raise f).tcpFatal = s.tcpFatal := rfl
@[simp] theorem State.raise_now (f : Fault) : (s.raise f).now = s.now := rfl
@[simp] theorem State.raise_faults (f : Fault) : (s.raise f).faults = s.faults.add f := rfl
@[simp] theorem State.raise_results (f : Fault) : (s.raise f).results = s.results := rfl
@[simp] theorem State.raise_port (f : Fault) : (s.raise f).port = s.port := rfl
@[simp] theorem State.raise_script (f : Fault) : (s.raise f).script = s.script := rfl
@[simp] theorem State.raise_turn (f : Fault) : (s.raise f).turn = s.turn := rfl

/-! ### `State.present` -/

@[simp] theorem State.present_crc (h : Nat) (ops : Operands) (d : Nat) : (s.present h ops d).crc = s.crc := rfl
@[simp] theorem State.present_fbBuf (h : Nat) (ops : Operands) (d : Nat) : (s.present h ops d).fbBuf = s.fbBuf := rfl
@[simp] theorem State.present_cfgRtuReadTimeoutMs (h : Nat) (ops : Operands) (d : Nat) : (s.present h ops d).cfgRtuReadTimeoutMs = s.cfgRtuReadTimeoutMs := rfl
@[simp] theorem State.present_cfgTcpReqTimeoutMs (h : Nat) (ops : Operands) (d : Nat) : (s.present h ops d).cfgTcpReqTimeoutMs = s.cfgTcpReqTimeoutMs := rfl
@[simp] theorem State.present_rtuPhase (h : Nat) (ops : Operands) (d : Nat) : (s.present h ops d).rtuPhase = s.rtuPhase := rfl
@[simp] theorem State.present_rtuHost (h : Nat) (ops : Operands) (d : Nat) : (s.present h ops d).rtuHost = s.rtuHost := rfl
@[simp] theorem State.present_rtuAddr (h : Nat) (ops : Operands) (d : Nat) : (s.present h ops d).rtuAddr = s.rtuAddr := rfl
@[simp] theorem State.present_rtuTx (h : Nat) (ops : Operands) (d : Nat) : (s.present h ops d).rtuTx = s.rtuTx := rfl
@[simp] theorem State.present_rtuRx (h : Nat) (ops : Operands) (d : Nat) : (s.present h ops d).rtuRx = s.rtuRx := rfl
@[simp] theorem State.present_rtuNeed (h : Nat) (ops : Operands) (d : Nat) : (s.present h ops d).rtuNeed = s.rtuNeed := rfl
@[simp] theorem State.present_rtuDeadline (h : Nat) (ops : Operands) (d : Nat) : (s.present h ops d).rtuDeadline = s.rtuDeadline := rfl
@[simp] theorem State.present_serOut (h : Nat) (ops : Operands) (d : Nat) : (s.present h ops d).serOut = s.serOut := rfl
@[simp] theorem State.present_serIn (h : Nat) (ops : Operands) (d : Nat) : (s.present h ops d).serIn = s.serIn := rfl
@[simp] theorem State.present_serOpen (h : Nat) (ops : Operands) (d : Nat) : (s.present h ops d).serOpen = s.serOpen := rfl
@[simp] theorem State.present_tcpClosed (h : Nat) (ops : Operands) (d : Nat) : (s.present h ops d).tcpClosed = s.tcpClosed := rfl
@[simp] theorem State.present_tcpTid (h : Nat) (ops : Operands) (d : Nat) : (s.present h ops d).tcpTid = s.tcpTid := rfl
@[simp] theorem State.present_tcpMap (h : Nat) (ops : Operands) (d : Nat) : (s.present h ops d).tcpMap = s.tcpMap := rfl
@[simp] theorem State.present_tcpQueue (h : Nat) (ops : Operands) (d : Nat) : (s.present h ops d).tcpQueue = s.tcpQueue := rfl
@[simp] theorem State.present_twState (h : Nat) (ops : Operands) (d : Nat) : (s.present h ops d).twState = s.twState := rfl
@[simp] theorem State.present_trState (h : Nat) (ops : Operands) (d : Nat) : (s.present h ops d).trState = s.trState := rfl
@[simp] theorem State.present_waiters (h : Nat) (ops : Operands) (d : Nat) : (s.present h ops d).waiters = s.waiters := rfl
@[simp] theorem State.present_tcpOut (h : Nat) (ops : Operands) (d : Nat) : (s.present h ops d).tcpOut = s.tcpOut := rfl
@[simp] theorem State.present_tcpIn (h : Nat) (ops : Operands) (d : Nat) : (s.present h ops d).tcpIn = s.tcpIn := rfl
@[simp] theorem State.present_tcpOpen (h : Nat) (ops : Operands) (d : Nat) : (s.present h ops d).tcpOpen = s.tcpOpen := rfl
@[simp] theorem State.present_tcpFatal (h : Nat) (ops : Operands) (d : Nat) : (s.present h ops d).tcpFatal = s.tcpFatal := rfl
@[simp] theorem State.present_now (h : Nat) (ops : Operands) (d : Nat) : (s.present h ops d).now = s.now := rfl
@[simp] theorem State.present_faults (h : Nat) (ops : Operands) (d : Nat) : (s.present h ops d).faults = s.faults := rfl
@[simp] theorem State.present_results (h : Nat) (ops : Operands) (d : Nat) : (s.present h ops d).results = s.results := rfl
@[simp] theorem State.present_port (h : Nat) (ops : Operands) (d : Nat) : (s.present h ops d).port = ⟨h, ops, d⟩ := rfl
@[simp] theorem State.present_script (h : Nat) (ops : Operands) (d : Nat) : (s.present h ops d).script = s.script := rfl
@[simp] theorem State.present_turn (h : Nat) (ops : Operands) (d : Nat) : (s.present h ops d).turn = s.turn := rfl

/-! ### `State.updateWaiter` -/

@[simp] theorem State.updateWaiter_crc (c : Nat) (f : Waiter → Waiter) : (s.updateWaiter c f).crc = s.crc := rfl
@[simp] theorem State.updateWaiter_fbBuf (c : Nat) (f : Waiter → Waiter) : (s.updateWaiter c f).fbBuf = s.fbBuf := rfl
@[simp] theorem State.updateWaiter_cfgRtuReadTimeoutMs (c : Nat) (f : Waiter → Waiter) : (s.updateWaiter c f).cfgRtuReadTimeoutMs = s.cfgRtuReadTimeoutMs := rfl
@[simp] theorem State.updateWaiter_cfgTcpReqTimeoutMs (c : Nat) (f : Waiter → Waiter) : (s.updateWaiter c f).cfgTcpReqTimeoutMs = s.cfgTcpReqTimeoutMs := rfl
@[simp] theorem State.updateWaiter_rtuPhase (c : Nat) (f : Waiter → Waiter) : (s.updateWaiter c f).rtuPhase = s.rtuPhase := rfl
@[simp] theorem State.updateWaiter_rtuHost (c : Nat) (f : Waiter → Waiter) : (s.updateWaiter c f).rtuHost = s.rtuHost := rfl
@[simp] theorem State.updateWaiter_rtuAddr (c : Nat) (f : Waiter → Waiter) : (s.updateWaiter c f).rtuAddr = s.rtuAddr := rfl
@[simp] theorem State.updateWaiter_rtuTx (c : Nat) (f : Waiter → Waiter) : (s.updateWaiter c f).rtuTx = s.rtuTx := rfl
@[simp] theorem State.updateWaiter_rtuRx (c : Nat) (f : Waiter → Waiter) : (s.updateWaiter c f).rtuRx = s.rtuRx := rfl
@[simp] theorem State.updateWaiter_rtuNeed (c : Nat) (f : Waiter → Waiter) : (s.updateWaiter c f).rtuNeed = s.rtuNeed := rfl
@[simp] theorem State.updateWaiter_rtuDeadline (c : Nat) (f : Waiter → Waiter) : (s.updateWaiter c f).rtuDeadline = s.rtuDeadline := rfl
@[simp] theorem State.updateWaiter_serOut (c : Nat) (f : Waiter → Waiter) : (s.updateWaiter c f).serOut = s.serOut := rfl
@[simp] theorem State.updateWaiter_serIn (c : Nat) (f : Waiter → Waiter) : (s.updateWaiter c f).serIn = s.serIn := rfl
@[simp] theorem State.updateWaiter_serOpen (c : Nat) (f : Waiter → Waiter) : (s.updateWaiter c f).serOpen = s.serOpen := rfl
@[simp] theorem State.updateWaiter_tcpClosed (c : Nat) (f : Waiter → Waiter) : (s.updateWaiter c f).tcpClosed = s.tcpClosed := rfl
@[simp] theorem State.updateWaiter_tcpTid (c : Nat) (f : Waiter → Waiter) : (s.updateWaiter c f).tcpTid = s.tcpTid := rfl
@[simp] theorem State.updateWaiter_tcpMap (c : Nat) (f : Waiter → Waiter) : (s.updateWaiter c f).tcpMap = s.tcpMap := rfl
@[simp] theorem State.updateWaiter_tcpQueue (c : Nat) (f : Waiter → Waiter) : (s.updateWaiter c f).tcpQueue = s.tcpQueue := rfl
@[simp] theorem State.updateWaiter_twState (c : Nat) (f : Waiter → Waiter) : (s.updateWaiter c f).twState = s.twState := rfl
@[simp] theorem State.updateWaiter_trState (c : Nat) (f : Waiter → Waiter) : (s.updateWaiter c f).trState = s.trState := rfl
@[simp] theorem State.updateWaiter_waiters (c : Nat) (f : Waiter → Waiter) : (s.updateWaiter c f).waiters = s.waiters.modify c f := rfl
@[simp] theorem State.updateWaiter_tcpOut (c : Nat) (f : Waiter → Waiter) : (s.updateWaiter c f).tcpOut = s.tcpOut := rfl
@[simp] theorem State.updateWaiter_tcpIn (c : Nat) (f : Waiter → Waiter) : (s.updateWaiter c f).tcpIn = s.tcpIn := rfl
@[simp] theorem State.updateWaiter_tcpOpen (c : Nat) (f : Waiter → Waiter) : (s.updateWaiter c f).tcpOpen = s.tcpOpen := rfl
@[simp] theorem State.updateWaiter_tcpFatal (c : Nat) (f : Waiter → Waiter) : (s.updateWaiter c f).tcpFatal = s.tcpFatal := rfl
@[simp] theorem State.updateWaiter_now (c : Nat) (f : Waiter → Waiter) : (s.updateWaiter c f).now = s.now := rfl
@[simp] theorem State.updateWaiter_faults (c : Nat) (f : Waiter → Waiter) : (s.updateWaiter c f).faults = s.faults := rfl
@[simp] theorem State.updateWaiter_results (c : Nat) (f : Waiter → Waiter) : (s.updateWaiter c f).results = s.results := rfl
@[simp] theorem State.updateWaiter_port (c : Nat) (f : Waiter → Waiter) : (s.updateWaiter c f).port = s.port := rfl
@[simp] theorem State.updateWaiter_script (c : Nat) (f : Waiter → Waiter) : (s.updateWaiter c f).script = s.script := rfl
@[simp] theorem State.updateWaiter_turn (c : Nat) (f : Waiter → Waiter) : (s.updateWaiter c f).turn = s.turn := rfl

end Sys2Proof.Machine
end

