-- ==== Sys2Proof/Laws/Ops.lean ====
section
/-! SUPPORT. What each shared operation does, said once: results, faults, stream writes, the serial framer's ending, and the
completions of the stream transport. -/

namespace Sys2Proof.Machine

/-! ### Faults, capacities, writes -/

/-- Only the empty set has no first fault. -/
theorem FaultSet.first_none (f : FaultSet) : f.first = none ↔ f = {} := by
  obtain ⟨a, b, c, d⟩ := f
  cases a <;> cases b <;> cases c <;> cases d <;> simp [FaultSet.first]

/-- Nothing exceeds an unbounded capacity. -/
@[simp] theorem exceeds_none (n : Nat) : exceeds none n = false := rfl

@[simp] theorem exceeds_fbCapacity (n : Nat) : exceeds Config.fbCapacity n = false := rfl

@[simp] theorem queueHasRoom_true (s : State) : queueHasRoom s = true := rfl

@[simp] theorem streamWrite_closed (k : Nat) (ioerr : Bool) (frame : Bytes) :
    streamWrite false k ioerr frame = ([], .ioErr) := rfl

@[simp] theorem streamWrite_ioErr (k : Nat) (frame : Bytes) :
    streamWrite true k true frame = (frame.take k, .ioErr) := rfl

/-- A short write. -/
theorem streamWrite_short {k : Nat} {frame : Bytes} (h : k < frame.length) :
    streamWrite true k false frame = (frame.take k, .short) := by simp [streamWrite, h]

/-- A full write. -/
theorem streamWrite_full {k : Nat} {frame : Bytes} (h : frame.length ≤ k) :
    streamWrite true k false frame = (frame, .full) := by
  simp [streamWrite, Nat.not_lt.2 h, List.take_of_length_le h]

/-! ### The serial framer -/

/-- A request of host `h` ends: result and phase, nothing else. -/
theorem rtuFinish_of_host {s : State} {h : Nat} (hh : s.rtuHost = some h) (r : Result) :
    rtuFinish r s = { s with rtuPhase := .idle, results := s.results.put h r } := by
  simp [rtuFinish, hh, State.reply]

/-- Ending a request changes the framer's phase and the result ports only. -/
theorem rtuFinish_cases (r : Result) (s : State) :
    ∃ m, rtuFinish r s = { s with rtuPhase := .idle, results := m } ∧
      (m = s.results ∨ ∃ h, s.rtuHost = some h ∧ m = s.results.put h r) := by
  rcases Option.eq_none_or_eq_some s.rtuHost with hh | ⟨h, hh⟩
  · exact ⟨s.results, by simp [rtuFinish, hh], .inl rfl⟩
  · exact ⟨_, rtuFinish_of_host hh r, .inr ⟨h, hh, rfl⟩⟩

/-! ### Completions -/

/-- A completion of an id that is not registered does nothing. -/
theorem complete_of_none {s : State} {tid : Nat} (h : s.tcpMap.get tid = none) (r : Result) : complete tid r s = s := by
  simp [complete, h]

/-- A completion of a registered id takes the record out and signals its waiter. -/
theorem complete_of_some {s : State} {tid : Nat} {p : Pending} (h : s.tcpMap.get tid = some p) (r : Result) :
    complete tid r s =
      { s with tcpMap := s.tcpMap.del tid, waiters := s.waiters.modify p.waiter (Waiter.signalled r) } := by
  simp [complete, h, State.updateWaiter]

/-- A completion changes the pending map and the waiters only. -/
theorem complete_cases (tid : Nat) (r : Result) (s : State) :
    (s.tcpMap.get tid = none ∧ complete tid r s = s) ∨
    ∃ p, s.tcpMap.get tid = some p ∧ complete tid r s =
      { s with tcpMap := s.tcpMap.del tid, waiters := s.waiters.modify p.waiter (Waiter.signalled r) } := by
  cases h : s.tcpMap.get tid with
  | none => exact .inl ⟨rfl, complete_of_none h r⟩
  | some p => exact .inr ⟨p, rfl, complete_of_some h r⟩

/-- The frame of a completion. -/
theorem complete_frame (tid : Nat) (r : Result) (s : State) :
    ∃ m ws, complete tid r s = { s with tcpMap := m, waiters := ws } := by
  rcases complete_cases tid r s with ⟨_, h⟩ | ⟨p, _, h⟩
  · exact ⟨s.tcpMap, s.waiters, h⟩
  · exact ⟨_, _, h⟩

/-- The frame of a list of completions. -/
theorem completeAll_frame (entries : Assoc Pending) (r : Result) (s : State) :
    ∃ m ws, completeAll entries r s = { s with tcpMap := m, waiters := ws } := by
  induction entries generalizing s with
  | nil => exact ⟨s.tcpMap, s.waiters, rfl⟩
  | cons e rest ih =>
    obtain ⟨m, ws, h⟩ := complete_frame e.1 r s
    obtain ⟨m', ws', h'⟩ := ih (complete e.1 r s)
    exact ⟨m', ws', by rw [completeAll, List.foldl_cons, ← completeAll, h', h]⟩

/-- The close sweep changes the stream transport's status, map, queue and waiters only. -/
theorem closeSweep_frame (s : State) :
    ∃ m ws, closeSweep s =
      { s with
        tcpClosed := true, tcpOpen := false, twState := .stop, trState := .rdStop, tcpMap := m, waiters := ws,
        tcpQueue := [] } := by
  obtain ⟨m, ws, h⟩ := completeAll_frame s.tcpMap (closedError s.tcpFatal)
    { s with tcpClosed := true, tcpOpen := false, twState := .stop, trState := .rdStop }
  exact ⟨m, ws, by rw [closeSweep, h]⟩

/-- Completing every entry of a canonical map empties it. -/
theorem completeAll_empties (r : Result) (entries : Assoc Pending) (s : State) (hs : s.tcpMap = entries)
    (hw : entries.wf = true) : (completeAll entries r s).tcpMap = [] := by
  induction entries generalizing s with
  | nil => exact hs
  | cons e rest ih =>
    obtain ⟨k, p⟩ := e
    obtain ⟨hlt, hrest⟩ := (Assoc.wf_cons ..).1 hw
    have hget : s.tcpMap.get k = some p := by simp [hs, Assoc.get]
    rw [completeAll, List.foldl_cons, ← completeAll]
    refine ih _ ?_ hrest
    rw [complete_of_some hget]
    simp only [hs, Assoc.del]
    rw [List.filter_cons_of_neg (by simp)]
    exact List.filter_eq_self.2 fun e he => by simp [Nat.ne_of_gt (hlt e he)]

/-- A waiter's own signal is all a list of completions changes of the waiters: every other field of every slot stays. -/
theorem completeAll_waiters (r : Result) (entries : Assoc Pending) (s : State) (hs : s.tcpMap = entries)
    (hw : entries.wf = true) :
    (completeAll entries r s).waiters =
      entries.foldl (fun ws e => ws.modify e.2.waiter (Waiter.signalled r)) s.waiters := by
  induction entries generalizing s with
  | nil => rfl
  | cons e rest ih =>
    obtain ⟨k, p⟩ := e
    obtain ⟨hlt, hrest⟩ := (Assoc.wf_cons ..).1 hw
    have hget : s.tcpMap.get k = some p := by simp [hs, Assoc.get]
    rw [completeAll, List.foldl_cons, ← completeAll, ih _ _ hrest]
    · rw [complete_of_some hget]; simp
    · rw [complete_of_some hget]
      simp only [hs, Assoc.del]
      rw [List.filter_cons_of_neg (by simp)]
      exact List.filter_eq_self.2 fun e he => by simp [Nat.ne_of_gt (hlt e he)]

/-- A fatal error changes the cause and sweeps. -/
theorem fatal_frame (cause : FatalCause) (s : State) :
    ∃ m ws, fatal cause s =
      { s with
        tcpFatal := s.tcpFatal.orElse cause, tcpClosed := true, tcpOpen := false, twState := .stop, trState := .rdStop,
        tcpMap := m, waiters := ws, tcpQueue := [] } :=
  closeSweep_frame { s with tcpFatal := s.tcpFatal.orElse cause }

/-! ### Waiter slots -/

/-- Changing a slot that exists is setting it. -/
theorem modify_of_getElem? {ws : List Waiter} {c : Nat} {w : Waiter} (h : ws[c]? = some w) (f : Waiter → Waiter) :
    ws.modify c f = ws.set c (f w) := by
  apply List.ext_getElem?
  intro d
  by_cases hd : c = d
  · subst hd
    obtain ⟨hlt, rfl⟩ := List.getElem?_eq_some_iff.1 h
    simp [hlt]
  · simp [hd]

end Sys2Proof.Machine
end

