-- ==== Sys2Proof/Laws/Step.lean ====
section
/-! SUPPORT. Inversion: what one command and one event can do, said once for every proof about a step. -/

namespace Sys2Proof.Machine

/-! ### Results -/

/-- A result without a PDU carries no invalid PDU. -/
theorem resultValid_of_none {r : Result} (h : r.pdu = none) : resultValid r := fun p hp => by simp [h] at hp

/-- A codec result is valid when the codec yields valid values. -/
theorem codecResult_valid {failure : Status} {x : Except Detail PDU} (h : ∀ p, x = .ok p → p.valid = true) :
    resultValid (codecResult failure x) := by
  cases x with
  | ok p => intro q hq; simp only [codecResult, Result.okPdu, Option.some.injEq] at hq; exact hq ▸ h p rfl
  | error d => exact resultValid_of_none rfl

theorem closedError_valid (c : FatalCause) : resultValid (closedError c) := resultValid_of_none rfl

/-- A drawn member is a member of the set drawn from (R17). -/
theorem drawFrom_mem {α : Type} (d : Nat) (x : α) (others : List α) : drawFrom d x others ∈ x :: others := by
  have h : d % (others.length + 1) < (x :: others).length := Nat.mod_lt _ (Nat.succ_pos _)
  rw [drawFrom, List.getD_eq_getElem?_getD, List.getElem?_eq_getElem h]
  exact List.getElem_mem h

theorem closeResult_pdu (d : Nat) : (closeResult d).pdu = none := by
  have := drawFrom_mem d Result.done [Result.err .errIo .ioErr]
  simp only [List.mem_cons, List.not_mem_nil, or_false] at this
  rcases this with h | h <;> rw [closeResult, h] <;> rfl

theorem closeAgainResult_pdu {closed : Result} (hc : closed.pdu = none) (d : Nat) :
    (closeAgainResult closed d).pdu = none := by
  have := drawFrom_mem d Result.done [closed, Result.err .errIo .ioErr]
  simp only [List.mem_cons, List.not_mem_nil, or_false] at this
  rcases this with h | h | h <;> rw [closeAgainResult, h] <;> first | exact hc | rfl

/-! ### One command -/

/-- The response classes of R132, which no command word decodes to. -/
def isResponseClass : Instr → Bool
  | .rtuRespException _ | .rtuRespReadFc01 | .rtuRespReadFc02 | .rtuRespReadFc03 | .rtuRespReadFc04 | .rtuRespWriteFc05
  | .rtuRespWriteFc06 | .rtuRespWriteFc0F | .rtuRespWriteFc10 | .rtuRespUnsupported _ => true
  | _ => false

/-- What a command can do to a state: the effects of all commands and response classes, with their guards. -/
inductive ExecEffect (s : State) : Instr → State → Prop
  /-- A result and nothing else. -/
  | answer (i : Instr) (r : Result) (valid : s.ops.valid = true → resultValid r) : ExecEffect s i (s.answer r)
  /-- The CRC register and a result. -/
  | crc (i : Instr) (mem : i = .crcInit ∨ i = .crcWrite) (c : U16) :
      ExecEffect s i ({ s with crc := c }.answer Result.done)
  /-- The frame buffer and a result. -/
  | frame (i : Instr) (mem : i = .fbReset ∨ i = .fbAppendBytes ∨ i = .fbAppendU16) (b : Bytes) :
      ExecEffect s i ({ s with fbBuf := b }.answer Result.done)
  /-- CSR 0 and a result. -/
  | csr0 : ExecEffect s (.csrWrite 0) ({ s with cfgRtuReadTimeoutMs := s.ops.n0 }.answer Result.done)
  /-- CSR 1 and a result. -/
  | csr1 : ExecEffect s (.csrWrite 1) ({ s with cfgTcpReqTimeoutMs := s.ops.n0 }.answer Result.done)
  /-- The fault of a serial command while a request is in progress. -/
  | busy (i : Instr) (mem : (∃ a, i = .rtuWriteRequest a) ∨ i = .rtuClose) (phase : s.rtuPhase.busy = true) :
      ExecEffect s i (s.raise .fRtuBusy)
  /-- A serial request handed to the framer. -/
  | rtuStart (a : Byte) (phase : s.rtuPhase = .idle) :
      ExecEffect s (.rtuWriteRequest a)
        { s with
          rtuHost := some s.port.host
          rtuAddr := a
          rtuTx := rtuFrame a s.ops.pdu.marshal
          rtuRx := []
          rtuNeed := 0
          rtuPhase := .send }
  /-- The serial stream closed. -/
  | rtuClose (phase : s.rtuPhase = .idle) (r : Result) (valid : r.pdu = none) :
      ExecEffect s .rtuClose ({ s with serOpen := false, rtuPhase := .closed }.answer r)
  /-- A stream request's waiter. -/
  | tcpStart (u : Byte) : ExecEffect s (.tcpWriteRequest u) { s with waiters := s.waiters ++ [newWaiter u s] }
  /-- The stream transport closed. -/
  | tcpClose (isOpen : s.tcpClosed = false) (r : Result) (valid : r.pdu = none) :
      ExecEffect s .tcpClose ((closeSweep s).answer r)
  /-- A read response's length byte awaited. -/
  | awaitLength (i : Instr) (mem : isResponseClass i = true) : ExecEffect s i (awaitResponse .len 3 s)
  /-- The rest of a frame awaited. -/
  | awaitBody (i : Instr) (mem : isResponseClass i = true) (need : Nat) (size : need = 5 ∨ need = 8) :
      ExecEffect s i (awaitResponse .body need s)
  /-- An unsupported response. -/
  | unsupported (fc : Byte) (r : Result) (valid : r.pdu = none) : ExecEffect s (.rtuRespUnsupported fc) (rtuFinish r s)


/-- A loop of appended words ends with a result and the frame buffer changed. -/
theorem appendWords_eq (ws : List U16) (s : State) :
    ∃ b, appendWords ws s = { s with fbBuf := b }.answer Result.done := by
  induction ws generalizing s with
  | nil => exact ⟨s.fbBuf, rfl⟩
  | cons w ws ih =>
    obtain ⟨b, hb⟩ := ih { s with fbBuf := s.fbBuf ++ be16 w }
    exact ⟨b, by rw [appendWords]; simpa using hb⟩

/-- Every instruction's next state is one of these effects. -/
theorem exec_effect {i : Instr} {s t : State} (h : exec i s = .next t) : ExecEffect s i t := by
  have new {x : Except Detail PDU} (hx : ∀ p, x = .ok p → p.valid = true) (h : answerNew x s = .next t) :
      ExecEffect s i t := by
    cases h; exact .answer i _ fun _ => codecResult_valid hx
  have dec {x : Except Detail PDU} (hx : ∀ p, x = .ok p → p.valid = true) (h : answerDecode x s = .next t) :
      ExecEffect s i t := by
    cases h; exact .answer i _ fun _ => codecResult_valid hx
  have mar {v : Variant} (h : answerMarshal v s = .next t) : ExecEffect s i t := by
    cases h; exact .answer i _ fun _ => by split <;> exact resultValid_of_none rfl
  have uns {v : Variant} {d : Bytes} (h : answerDecode (unmarshalAs v d) s = .next t) : ExecEffect s i t :=
    dec (fun _ hp => (unmarshalAs_valid hp).2) h
  have ans {r : Result} (hr : r.pdu = none) (h : (.next (s.answer r) : Answer) = .next t) : ExecEffect s i t := by
    cases h; exact .answer i _ fun _ => resultValid_of_none hr
  cases i
  case crcInit => cases h; exact .crc _ (.inl rfl) _
  case crcWrite => cases h; exact .crc _ (.inr rfl) _
  case crcRead => exact ans rfl h
  case crcChecksum => exact ans rfl h
  case fbReset => cases h; exact .frame _ (.inl rfl) _
  case fbAppendBytes => cases h; exact .frame _ (.inr (.inl rfl)) _
  case fbAppendU16 =>
    obtain ⟨b, hb⟩ := appendWords_eq s.ops.words s
    cases h
    rw [hb]
    exact .frame _ (.inr (.inr rfl)) _
  case fbFinalizeRaw => exact ans rfl h
  case fbFinalizeCrc => exact ans rfl h
  case newRbq => exact new (fun _ hp => (newRbq_valid hp).2) h
  case newRbs => exact new (fun _ hp => (newRbs_valid hp).2) h
  case newWsbq => exact new (fun _ hp => (newWsbq_valid hp).2) h
  case newWsbs => exact new (fun _ hp => (newWsbs_valid hp).2) h
  case newWmbq => exact new (fun _ hp => (newWmbq_valid hp).2) h
  case newWmbs => exact new (fun _ hp => (newWmbs_valid hp).2) h
  case newRrq => exact new (fun _ hp => (newRrq_valid hp).2) h
  case newRrs => exact new (fun _ hp => (newRrs_valid hp).2) h
  case newWsrq => exact new (fun _ hp => (newWsrq_valid hp).2) h
  case newWsrs => exact new (fun _ hp => (newWsrs_valid hp).2) h
  case newWmrq => exact new (fun _ hp => (newWmrq_valid hp).2) h
  case newWmrs => exact new (fun _ hp => (newWmrs_valid hp).2) h
  case newExc => exact new (fun _ hp => (newExc_valid hp).2) h
  case newRaw => exact new (fun _ hp => (newRaw_valid hp).2) h
  case decodeResponse => exact dec (fun _ hp => decodeResponsePdu_valid hp) h
  case bytesToBools => exact ans rfl h
  case boolsToBytes => exact ans rfl h
  case regsToU16 => simp only [exec, execRegsToU16] at h; split at h <;> exact ans rfl h
  case regsToF32 => simp only [exec, execRegsToF32] at h; split at h <;> exact ans rfl h
  case pduFc => exact ans rfl h
  case rtuWriteRequest a =>
    simp only [exec, execRtuWriteRequest] at h
    split at h
    · exact ans rfl h
    · split at h
      · cases h; exact .busy _ (.inl ⟨a, rfl⟩) (by cases hp : s.rtuPhase <;> simp_all [RtuPhase.busy])
      · cases h; exact .rtuStart a (by simp_all)
  case rtuClose =>
    simp only [exec, execRtuClose] at h
    split at h
    · exact ans (closeAgainResult_pdu rfl _) h
    · split at h
      · cases h; exact .busy _ (.inr rfl) (by cases hp : s.rtuPhase <;> simp_all [RtuPhase.busy])
      · cases h; exact .rtuClose (by simp_all) _ (closeResult_pdu _)
  case tcpWriteRequest u => cases h; exact .tcpStart u
  case tcpClose =>
    simp only [exec, execTcpClose] at h
    split at h
    · exact ans (closeAgainResult_pdu rfl _) h
    · cases h; exact .tcpClose (by simp_all) _ (closeResult_pdu _)
  case csrRead c => simp only [exec, execCsrRead] at h; split at h <;> exact ans rfl h
  case csrWrite c =>
    simp only [exec, execCsrWrite, csrUpdate] at h
    split at h
    · rename_i u hu
      split at hu
      · rename_i hc; obtain rfl : c = 0 := BitVec.eq_of_toNat_eq hc
        cases hu; cases h; exact .csr0
      · rename_i hc; obtain rfl : c = 1 := BitVec.eq_of_toNat_eq hc
        cases hu; cases h; exact .csr1
      · cases hu
    · exact ans rfl h
  case rtuRespException fc => cases h; exact .awaitBody _ rfl _ (.inl rfl)
  case rtuRespUnsupported fc => cases h; exact .unsupported _ _ rfl
  all_goals first
    | exact mar h
    | exact uns h
    | (cases h; exact .awaitLength _ rfl)
    | (cases h; exact .awaitBody _ rfl _ (.inr rfl))

/-- No command word decodes to a response class. -/
theorem decodeCommand_command {w : U32} {i : Instr} (h : decodeCommand w = .ok i) : isResponseClass i = false := by
  have hv (mk : Variant → Instr) (hmk : ∀ v, isResponseClass (mk v) = false) (n : Nat) (hi : (variantOf n).map mk = some i) :
      isResponseClass i = false := by
    obtain ⟨v, -, rfl⟩ := Option.map_eq_some_iff.1 hi
    exact hmk v
  simp only [decodeCommand] at h
  split at h
  · cases h
  · split at h
    · rename_i j hj
      cases h
      simp only [argCommand] at hj
      split at hj <;> cases hj <;> rfl
    · split at h
      · rename_i j hj
        split at h
        · cases h
          rcases Option.or_eq_some_iff.1 hj with hj | ⟨-, hj⟩
          · simp only [fixedCommand] at hj
            split at hj <;> cases hj <;> rfl
          · simp only [variantCommand] at hj
            split at hj
            · exact hv _ (fun v => by cases v <;> rfl) _ hj
            · exact hv _ (fun v => by cases v <;> rfl) _ hj
            · exact hv _ (fun v => by cases v <;> rfl) _ hj
            · exact hv _ (fun v => by cases v <;> rfl) _ hj
            · cases hj
        · cases h
      · cases h

/-! ### One event -/

/-- A fault set is empty exactly when it names no first fault. -/
theorem healthy_iff (s : State) : Healthy s ↔ s.faults.first = none := (FaultSet.first_none _).symm

/-- An enabled event in a healthy state fires. -/
theorem runEvent_fires {e : Event} {s : State} (hs : Healthy s) (he : eventEnabled e s = true) :
    runEvent e s = fireEvent e s := by
  have := (healthy_iff s).1 hs
  cases e <;> simp_all [runEvent, fireEvent]

/-- An event with a next state is a reset, or a healthy state's event: disabled without effect, or enabled and fired. -/
theorem runEvent_cases {e : Event} {s t : State} (h : runEvent e s = .next t) :
    (e = .reset ∧ t = s.afterReset) ∨
    (Healthy s ∧ eventEnabled e s = false ∧ t = s) ∨
    (Healthy s ∧ eventEnabled e s = true ∧ fireEvent e s = .next t) := by
  by_cases he : e = .reset
  · subst he; cases h; exact .inl ⟨rfl, rfl⟩
  · right
    cases hf : s.faults.first with
    | some f => cases e <;> simp_all [runEvent]
    | none =>
      have hs := (healthy_iff s).2 hf
      cases hen : eventEnabled e s
      · left; refine ⟨hs, rfl, ?_⟩; cases e <;> simp_all [runEvent]
      · right; exact ⟨hs, rfl, by rw [← runEvent_fires hs hen]; exact h⟩

/-- A command presented at the port ends as its instruction does, or as an illegal word. -/
theorem issueWord_cases {w : U32} {s t : State} (h : issueWord w s = .next t) :
    (∃ i, decodeCommand w = .ok i ∧ exec i s = .next t) ∨
    ((∃ e, decodeCommand w = .error e) ∧ t = s.answer (Result.err .errIllegalOp .encoding)) := by
  unfold issueWord at h
  split at h
  · exact .inl ⟨_, ‹_›, h⟩
  · cases h; exact .inr ⟨⟨_, ‹_›⟩, rfl⟩

/-- A step is the next event at the state it is taken from. -/
theorem step_eq (s : State) : step s = runEvent (nextEvent s) (afterEvent s) := rfl

/-- Taking the next event changes the model's own fields only. -/
theorem afterEvent_frame (s : State) : ∃ script turn, afterEvent s = { s with script := script, turn := turn } := by
  unfold afterEvent
  split
  · exact ⟨_, s.turn, rfl⟩
  · exact ⟨s.script, _, rfl⟩

end Sys2Proof.Machine
end

