-- ==== Sys2Proof/Laws/Agents.lean ====
section
/-! SUPPORT. Inversion of the agents' steps: what the serial framer, the writer loop, the reader loop and the waiters can do. -/

namespace Sys2Proof.Machine

/-! ### The serial framer -/

/-- What the framer can do once it has taken a byte. -/
inductive ReadEffect (u : State) : State → Prop
  /-- More bytes are needed. -/
  | more (len : u.rtuRx.length ≠ u.rtuNeed) : ReadEffect u u
  /-- Too few bytes for the phase, or no phase that reads (log entry 8). -/
  | short (hdr : u.rtuPhase = .hdr → u.rtuRx.length < 2) (len : u.rtuPhase = .len → u.rtuRx.length < 3)
      (body : u.rtuPhase = .body → u.rtuRx.length < 5) : ReadEffect u u
  /-- The request ends. -/
  | finish (r : Result) (valid : resultValid r) (busy : u.rtuPhase.busy = true) : ReadEffect u (rtuFinish r u)
  /-- A read response: its length byte is next. -/
  | length (a fc : Byte) (rest : Bytes) (phase : u.rtuPhase = .hdr) (len : u.rtuRx.length = u.rtuNeed)
      (rx : u.rtuRx = a :: fc :: rest) (addr : a = u.rtuAddr) : ReadEffect u (awaitResponse .len 3 u)
  /-- A response of fixed size: its rest is next. -/
  | fixed (a fc : Byte) (rest : Bytes) (need : Nat) (phase : u.rtuPhase = .hdr) (len : u.rtuRx.length = u.rtuNeed)
      (rx : u.rtuRx = a :: fc :: rest) (addr : a = u.rtuAddr) (size : need = 5 ∨ need = 8) :
      ReadEffect u (awaitResponse .body need u)
  /-- A read response's length byte: its rest is next. -/
  | sized (a fc n : Byte) (rest : Bytes) (phase : u.rtuPhase = .len) (len : u.rtuRx.length = u.rtuNeed)
      (rx : u.rtuRx = a :: fc :: n :: rest) : ReadEffect u { u with rtuNeed := 3 + n.toNat + 2, rtuPhase := .body }

/-- The response class of a header's function-code byte: it awaits more bytes or ends the request. -/
theorem exec_decodeRespFc (fc : Byte) (s : State) :
    (exec (decodeRespFc fc) s = .next (awaitResponse .len 3 s)) ∨
    (∃ need, (need = 5 ∨ need = 8) ∧ exec (decodeRespFc fc) s = .next (awaitResponse .body need s)) ∨
    ∃ r, r.pdu = none ∧ exec (decodeRespFc fc) s = .next (rtuFinish r s) := by
  unfold decodeRespFc
  by_cases h : isExceptionFc fc = true
  · rw [if_pos h]; exact .inr (.inl ⟨5, .inl rfl, rfl⟩)
  rw [if_neg h]
  repeat' split
  all_goals first
    | exact .inl rfl
    | exact .inr (.inl ⟨8, .inr rfl, rfl⟩)
    | exact .inr (.inr ⟨_, rfl, rfl⟩)

/-- The framer's read step, with a byte queued. -/
theorem rtuRead_effect {s t : State} {b : Byte} {rest : Bytes} (hs : s.serIn = b :: rest) (h : rtuRead s = .next t) :
    ReadEffect (rtuTake b rest s) t := by
  simp only [rtuRead, hs] at h
  obtain ⟨u, hu⟩ : ∃ u, u = rtuTake b rest s := ⟨_, rfl⟩
  have hn : s.rtuNeed = u.rtuNeed := by rw [hu]; rfl
  rw [← hu, hn] at h
  rw [← hu]
  clear hu hn hs
  split at h
  · rename_i hl
    simp only [rtuPhaseDone] at h
    split at h
    · rename_i hp
      have hb : u.rtuPhase.busy = true := by rw [hp]; rfl
      simp only [rtuHeaderDone] at h
      split at h
      · rename_i a fc tl hrx
        split at h
        · injection h with h; subst h; exact .finish _ (resultValid_of_none rfl) hb
        · rename_i ha
          rcases exec_decodeRespFc fc u with h' | ⟨need, hn, h'⟩ | ⟨r, hr, h'⟩ <;> rw [h'] at h <;> injection h with h <;> subst h
          · exact .length a fc tl hp hl hrx (by simpa using ha)
          · exact .fixed a fc tl need hp hl hrx (by simpa using ha) hn
          · exact .finish _ (resultValid_of_none hr) hb
      · rename_i hne
        injection h with h; subst h
        refine .short (fun _ => ?_) (by simp [hp]) (by simp [hp])
        match hr : u.rtuRx, hne with
        | [], _ => simp
        | [_], _ => simp
        | a :: c :: r, hne => exact absurd rfl (hne a c r)
    · rename_i hp
      injection h with h; subst h
      simp only [rtuLengthDone]
      split
      · rename_i a fc n tl hrx; exact .sized a fc n tl hp hl hrx
      · rename_i hne
        refine .short (by simp [hp]) (fun _ => ?_) (by simp [hp])
        match hr : u.rtuRx, hne with
        | [], _ => simp
        | [_], _ => simp
        | [_, _], _ => simp
        | a :: c :: n :: r, hne => exact absurd rfl (hne a c n r)
    · rename_i hp
      have hb : u.rtuPhase.busy = true := by rw [hp]; rfl
      injection h with h; subst h
      simp only [rtuBodyDone]
      split
      · rename_i lo hi hd
        split
        · exact .finish _ (resultValid_of_none rfl) hb
        · split
          · rename_i p hn
            exact .finish _ (fun q hq => by cases hq; exact (newRaw_valid hn).2) hb
          · rename_i d hn
            refine .short (by simp [hp]) (by simp [hp]) fun _ => ?_
            have hlen := congrArg List.length hd
            simp only [List.length_drop, List.length_cons, List.length_nil] at hlen
            match hr : (u.rtuRx.take (u.rtuRx.length - 2)).drop 1, hn with
            | [], _ => have := congrArg List.length hr; simp at this; omega
            | [_], _ => have := congrArg List.length hr; simp at this; omega
      · rename_i hne
        refine .short (by simp [hp]) (by simp [hp]) fun _ => ?_
        match hr : u.rtuRx.drop (u.rtuRx.length - 2), hne with
        | [], _ => have := congrArg List.length hr; simp at this; omega
        | [_], _ => have := congrArg List.length hr; simp at this; omega
        | [a, c], hne => exact absurd rfl (hne a c)
        | a :: c :: n :: r, _ => have := congrArg List.length hr; simp at this; omega
    all_goals (rename_i hp; injection h with h; subst h; exact .short (by simp [hp]) (by simp [hp]) (by simp [hp]))
  · injection h with h; subst h; exact .more ‹_›

/-- The framer's send step appends to `ser_out` and ends the request or awaits the header. -/
theorem rtuSend_cases (k : Nat) (ioerr : Bool) (s : State) :
    (∃ out r, r.pdu.join = none ∧ rtuSend k ioerr s = rtuFinish r { s with serOut := s.serOut ++ out }) ∨
    ∃ out, s.rtuAddr ≠ 0 ∧ rtuSend k ioerr s =
      { s with
        serOut := s.serOut ++ out
        rtuDeadline := s.now + s.cfgRtuReadTimeoutMs.toNat
        rtuNeed := 2
        rtuPhase := .hdr } := by
  unfold rtuSend
  split
  · rename_i e he
    refine .inl ⟨_, e, ?_, rfl⟩
    cases hw : (streamWrite s.serOpen k ioerr s.rtuTx).2 <;> rw [hw] at he <;> cases he <;> rfl
  · unfold rtuSent
    split
    · exact .inl ⟨_, _, rfl, rfl⟩
    · exact .inr ⟨_, ‹_›, rfl⟩

/-! ### The stream loops -/

/-- The writer step takes the head of the queue and raises the overflow fault, or appends to `tcp_out` and may complete that
item's request with an error. -/
theorem writerStep_cases (k : Nat) (ioerr : Bool) {s : State} {q : QItem} {rest : List QItem} (hq : s.tcpQueue = q :: rest) :
    (writerStep k ioerr s = { s with tcpQueue := rest }.raise .fMbapOverflow) ∨
    ∃ out, (writerStep k ioerr s = { s with tcpQueue := rest, tcpOut := s.tcpOut ++ out }) ∨
      ∃ r, r.pdu = none ∧
        writerStep k ioerr s = complete q.tid.toNat r { s with tcpQueue := rest, tcpOut := s.tcpOut ++ out } := by
  simp only [writerStep, hq, writeItem]
  split
  · exact .inl rfl
  · right
    split
    · rename_i e he
      refine ⟨_, .inr ⟨e, ?_, rfl⟩⟩
      cases hw : (streamWrite s.tcpOpen k ioerr (mbapFrame q.tid q.unit q.req.marshal)).2 <;> rw [hw] at he <;>
        cases he <;> rfl
    · exact ⟨_, .inl rfl⟩

/-- What the reader can do with a byte. -/
inductive ByteEffect (u : State) : State → Prop
  /-- A connection-fatal error. -/
  | fatal (cause : FatalCause) : ByteEffect u (fatal cause u)
  /-- A request is completed; the next header is read. -/
  | complete (tid : Nat) (r : Result) (valid : resultValid r) :
      ByteEffect u { complete tid r u with trState := .rdHdr [] }
  /-- The reader goes on. -/
  | go (st : TrState) (fits : readerFits st) (running : st ≠ .rdStop) : ByteEffect u { u with trState := st }

theorem readerFields_effect (tid proto length : U16) (unit : Byte) (s : State) :
    ByteEffect s (readerFields tid proto length unit s) := by
  have := length.isLt
  unfold readerFields
  repeat' split
  · exact .fatal _
  · exact .fatal _
  · exact .fatal _
  · exact .fatal _
  · exact .complete _ _ (resultValid_of_none rfl)
  · exact .go _ (by simp only [readerFits, List.length_nil]; omega) nofun

/-- The reader step, with a byte queued and the reader running. -/
theorem readerStep_effect {s : State} {b : Byte} {rest : Bytes} (hs : s.tcpIn = b :: rest) (hf : readerFits s.trState)
    (hr : s.trState ≠ .rdStop) : ByteEffect { s with tcpIn := rest } (readerStep s) := by
  simp only [readerStep, hs, readerByte]
  split
  · rename_i buf hst
    split
    · rename_i hl; exact .go _ hl nofun
    · unfold readerHeader
      split
      · exact readerFields_effect ..
      · rename_i hl _ hne
        rw [hst] at hf
        simp only [readerFits] at hf
        have hlen : (buf ++ [b]).length = 7 := by simp at hl ⊢; omega
        match hbb : buf ++ [b], hlen, hne with
        | [a1, a2, a3, a4, a5, a6, a7], _, hne => exact absurd rfl (hne a1 a2 a3 a4 a5 a6 a7 [])
  · rename_i tid unit need buf hst
    rw [hst] at hf
    unfold readerBody
    split
    · rename_i hl; exact .go _ ⟨hl, hf.2⟩ nofun
    · refine .complete _ _ ?_
      unfold bodyResult
      split
      · exact resultValid_of_none rfl
      · split
        · rename_i p hp; intro q hq; cases hq; exact (newRaw_valid hp).2
        · exact resultValid_of_none rfl
  · contradiction

/-! ### The waiters -/

/-- A waiter ends: a result to its host and its slot done. -/
theorem waiterEnd_eq (c : Nat) (w : Waiter) (r : Result) (s : State) :
    waiterEnd c w r s =
      { s with results := s.results.put w.host r, waiters := s.waiters.modify c (Waiter.inPhase .done) } := rfl

/-- What the step of a waiter's phase can do. -/
inductive WaiterEffect (s : State) (c : Nat) (w : Waiter) : State → Prop
  /-- The closed check fails. -/
  | closed (phase : w.phase = .check) (isClosed : s.tcpClosed = true) :
      WaiterEffect s c w (waiterEnd c w (closedError s.tcpFatal) s)
  /-- The closed check passes. -/
  | passed (phase : w.phase = .check) : WaiterEffect s c w (s.updateWaiter c (Waiter.inPhase .alloc))
  /-- A transaction id is allocated. -/
  | alloc (phase : w.phase = .alloc) : WaiterEffect s c w (waiterAlloc c s)
  /-- The id is still registered. -/
  | reuse (phase : w.phase = .reg) : WaiterEffect s c w (s.raise .fTidReuse)
  /-- The request is registered and queued. -/
  | register (phase : w.phase = .reg) (free : s.tcpMap.get w.tid.toNat = none) :
      WaiterEffect s c w
        { s with
          tcpMap := s.tcpMap.put w.tid.toNat { unit := w.unit, req := w.req, waiter := c }
          tcpQueue := s.tcpQueue ++ [{ tid := w.tid, unit := w.unit, req := w.req }]
          waiters := s.waiters.modify c (Waiter.inPhase .wait) }
  /-- The request is completed. -/
  | completed (r : Result) (phase : w.phase = .wait) (signal : w.signal = some r) :
      WaiterEffect s c w (waiterEnd c w r s)

/-- An enabled step of a waiter's phase. -/
theorem waiterRun_effect {c : Nat} {s : State} (h : waiterCanRun c s = true) :
    ∃ w, s.waiters[c]? = some w ∧ WaiterEffect s c w (waiterRun c s) := by
  unfold waiterCanRun at h
  split at h
  · rename_i w hw
    refine ⟨w, hw, ?_⟩
    simp only [waiterRun, hw]
    split
    · rename_i hp; unfold waiterCheck; split
      · exact .closed hp ‹_›
      · exact .passed hp
    · rename_i hp; exact .alloc hp
    · rename_i hp; unfold waiterRegister; split
      · exact .reuse hp
      · rename_i hn; exact .register hp (by simpa using hn)
    · rename_i r hp hs; exact .completed r hp hs
    · rename_i hp hs; simp [hp, hs] at h
    · rename_i hp; simp [hp] at h
  · cases h

/-- Removing a timed-out record changes the pending map only. -/
theorem dropRecord_cases (c : Nat) (w : Waiter) (s : State) :
    (dropRecord c w s = { s with tcpMap := s.tcpMap.del w.tid.toNat } ∧
      ∃ p, s.tcpMap.get w.tid.toNat = some p ∧ p.waiter = c) ∨
    (dropRecord c w s = s ∧ ∀ p, s.tcpMap.get w.tid.toNat = some p → p.waiter ≠ c) := by
  unfold dropRecord
  split
  · rename_i p hp
    split
    · exact .inl ⟨rfl, p, hp, ‹_›⟩
    · exact .inr ⟨rfl, fun q hq => by rw [hp] at hq; cases hq; assumption⟩
  · rename_i hn; exact .inr ⟨rfl, by simp [hn]⟩

/-- An enabled timeout ends a waiting request. -/
theorem waiterTimeout_eq {c : Nat} {s : State} (h : waiterTimeUp c s = true) :
    ∃ w, s.waiters[c]? = some w ∧ w.phase = .wait ∧
      waiterTimeout c s = waiterEnd c w (Result.err .errTimeout .none) (dropRecord c w s) := by
  unfold waiterTimeUp at h
  split at h
  · rename_i w hw
    simp only [decide_eq_true_eq] at h
    exact ⟨w, hw, h.1, by simp only [waiterTimeout, hw]⟩
  · cases h

end Sys2Proof.Machine
end

