-- ==== Sys2Proof/Laws/PerInstr.lean ====
section
/-! SUPPORT. Statements for all instructions, made one instruction at a time. `EncodingFits`: the encoding has the width of
its row and its bits fit that width (R110, R132). -/

namespace Sys2Proof.Laws.EncodingFits

open Sys2Proof

/-- The encoding is a 32-bit command word or an 8-bit function code, and its bits fit. -/
def Statement (i : Instr) : Prop :=
  ((encode i).nbits = 8 ∨ (encode i).nbits = 32) ∧ (encode i).word < 2 ^ (encode i).nbits

/-- A command word fits 32 bits. -/
theorem command (op arg : Byte) : (encodedCommand op arg).word < 2 ^ (encodedCommand op arg).nbits :=
  (commandWord op arg).isLt

/-- A function-code byte fits 8 bits. -/
theorem functionCode (b : Byte) : (encodedFc b).word < 2 ^ (encodedFc b).nbits := b.isLt

theorem crcInit : Statement .crcInit := ⟨.inr rfl, command _ _⟩
theorem crcWrite : Statement .crcWrite := ⟨.inr rfl, command _ _⟩
theorem crcRead : Statement .crcRead := ⟨.inr rfl, command _ _⟩
theorem crcChecksum : Statement .crcChecksum := ⟨.inr rfl, command _ _⟩
theorem fbReset : Statement .fbReset := ⟨.inr rfl, command _ _⟩
theorem fbAppendBytes : Statement .fbAppendBytes := ⟨.inr rfl, command _ _⟩
theorem fbAppendU16 : Statement .fbAppendU16 := ⟨.inr rfl, command _ _⟩
theorem fbFinalizeRaw : Statement .fbFinalizeRaw := ⟨.inr rfl, command _ _⟩
theorem fbFinalizeCrc : Statement .fbFinalizeCrc := ⟨.inr rfl, command _ _⟩
theorem newRbq : Statement .newRbq := ⟨.inr rfl, command _ _⟩
theorem newRbs : Statement .newRbs := ⟨.inr rfl, command _ _⟩
theorem newWsbq : Statement .newWsbq := ⟨.inr rfl, command _ _⟩
theorem newWsbs : Statement .newWsbs := ⟨.inr rfl, command _ _⟩
theorem newWmbq : Statement .newWmbq := ⟨.inr rfl, command _ _⟩
theorem newWmbs : Statement .newWmbs := ⟨.inr rfl, command _ _⟩
theorem newRrq : Statement .newRrq := ⟨.inr rfl, command _ _⟩
theorem newRrs : Statement .newRrs := ⟨.inr rfl, command _ _⟩
theorem newWsrq : Statement .newWsrq := ⟨.inr rfl, command _ _⟩
theorem newWsrs : Statement .newWsrs := ⟨.inr rfl, command _ _⟩
theorem newWmrq : Statement .newWmrq := ⟨.inr rfl, command _ _⟩
theorem newWmrs : Statement .newWmrs := ⟨.inr rfl, command _ _⟩
theorem newExc : Statement .newExc := ⟨.inr rfl, command _ _⟩
theorem newRaw : Statement .newRaw := ⟨.inr rfl, command _ _⟩
theorem marshalRbq : Statement .marshalRbq := ⟨.inr rfl, command _ _⟩
theorem marshalRbs : Statement .marshalRbs := ⟨.inr rfl, command _ _⟩
theorem marshalWsbq : Statement .marshalWsbq := ⟨.inr rfl, command _ _⟩
theorem marshalWsbs : Statement .marshalWsbs := ⟨.inr rfl, command _ _⟩
theorem marshalWmbq : Statement .marshalWmbq := ⟨.inr rfl, command _ _⟩
theorem marshalWmbs : Statement .marshalWmbs := ⟨.inr rfl, command _ _⟩
theorem marshalRrq : Statement .marshalRrq := ⟨.inr rfl, command _ _⟩
theorem marshalRrs : Statement .marshalRrs := ⟨.inr rfl, command _ _⟩
theorem marshalWsrq : Statement .marshalWsrq := ⟨.inr rfl, command _ _⟩
theorem marshalWsrs : Statement .marshalWsrs := ⟨.inr rfl, command _ _⟩
theorem marshalWmrq : Statement .marshalWmrq := ⟨.inr rfl, command _ _⟩
theorem marshalWmrs : Statement .marshalWmrs := ⟨.inr rfl, command _ _⟩
theorem marshalExc : Statement .marshalExc := ⟨.inr rfl, command _ _⟩
theorem marshalRaw : Statement .marshalRaw := ⟨.inr rfl, command _ _⟩
theorem unmarshalRbq : Statement .unmarshalRbq := ⟨.inr rfl, command _ _⟩
theorem unmarshalRbs : Statement .unmarshalRbs := ⟨.inr rfl, command _ _⟩
theorem unmarshalWsbq : Statement .unmarshalWsbq := ⟨.inr rfl, command _ _⟩
theorem unmarshalWsbs : Statement .unmarshalWsbs := ⟨.inr rfl, command _ _⟩
theorem unmarshalWmbq : Statement .unmarshalWmbq := ⟨.inr rfl, command _ _⟩
theorem unmarshalWmbs : Statement .unmarshalWmbs := ⟨.inr rfl, command _ _⟩
theorem unmarshalRrq : Statement .unmarshalRrq := ⟨.inr rfl, command _ _⟩
theorem unmarshalRrs : Statement .unmarshalRrs := ⟨.inr rfl, command _ _⟩
theorem unmarshalWsrq : Statement .unmarshalWsrq := ⟨.inr rfl, command _ _⟩
theorem unmarshalWsrs : Statement .unmarshalWsrs := ⟨.inr rfl, command _ _⟩
theorem unmarshalWmrq : Statement .unmarshalWmrq := ⟨.inr rfl, command _ _⟩
theorem unmarshalWmrs : Statement .unmarshalWmrs := ⟨.inr rfl, command _ _⟩
theorem unmarshalExc : Statement .unmarshalExc := ⟨.inr rfl, command _ _⟩
theorem unmarshalRaw : Statement .unmarshalRaw := ⟨.inr rfl, command _ _⟩
theorem decodeResponse : Statement .decodeResponse := ⟨.inr rfl, command _ _⟩
theorem bytesToBools : Statement .bytesToBools := ⟨.inr rfl, command _ _⟩
theorem boolsToBytes : Statement .boolsToBytes := ⟨.inr rfl, command _ _⟩
theorem regsToU16 : Statement .regsToU16 := ⟨.inr rfl, command _ _⟩
theorem regsToF32 : Statement .regsToF32 := ⟨.inr rfl, command _ _⟩
theorem pduFc : Statement .pduFc := ⟨.inr rfl, command _ _⟩
theorem rtuWriteRequest (slave : Byte) : Statement (.rtuWriteRequest slave) := ⟨.inr rfl, command _ _⟩
theorem rtuClose : Statement .rtuClose := ⟨.inr rfl, command _ _⟩
theorem tcpWriteRequest (unit : Byte) : Statement (.tcpWriteRequest unit) := ⟨.inr rfl, command _ _⟩
theorem tcpClose : Statement .tcpClose := ⟨.inr rfl, command _ _⟩
theorem csrRead (csr : Byte) : Statement (.csrRead csr) := ⟨.inr rfl, command _ _⟩
theorem csrWrite (csr : Byte) : Statement (.csrWrite csr) := ⟨.inr rfl, command _ _⟩
theorem reinterpretRbq : Statement .reinterpretRbq := ⟨.inr rfl, command _ _⟩
theorem reinterpretRbs : Statement .reinterpretRbs := ⟨.inr rfl, command _ _⟩
theorem reinterpretWsbq : Statement .reinterpretWsbq := ⟨.inr rfl, command _ _⟩
theorem reinterpretWsbs : Statement .reinterpretWsbs := ⟨.inr rfl, command _ _⟩
theorem reinterpretWmbq : Statement .reinterpretWmbq := ⟨.inr rfl, command _ _⟩
theorem reinterpretWmbs : Statement .reinterpretWmbs := ⟨.inr rfl, command _ _⟩
theorem reinterpretRrq : Statement .reinterpretRrq := ⟨.inr rfl, command _ _⟩
theorem reinterpretRrs : Statement .reinterpretRrs := ⟨.inr rfl, command _ _⟩
theorem reinterpretWsrq : Statement .reinterpretWsrq := ⟨.inr rfl, command _ _⟩
theorem reinterpretWsrs : Statement .reinterpretWsrs := ⟨.inr rfl, command _ _⟩
theorem reinterpretWmrq : Statement .reinterpretWmrq := ⟨.inr rfl, command _ _⟩
theorem reinterpretWmrs : Statement .reinterpretWmrs := ⟨.inr rfl, command _ _⟩
theorem reinterpretExc : Statement .reinterpretExc := ⟨.inr rfl, command _ _⟩
theorem reinterpretRaw : Statement .reinterpretRaw := ⟨.inr rfl, command _ _⟩
theorem rtuRespException (fc : Byte) : Statement (.rtuRespException fc) := ⟨.inl rfl, functionCode _⟩
theorem rtuRespReadFc01 : Statement .rtuRespReadFc01 := ⟨.inl rfl, functionCode _⟩
theorem rtuRespReadFc02 : Statement .rtuRespReadFc02 := ⟨.inl rfl, functionCode _⟩
theorem rtuRespReadFc03 : Statement .rtuRespReadFc03 := ⟨.inl rfl, functionCode _⟩
theorem rtuRespReadFc04 : Statement .rtuRespReadFc04 := ⟨.inl rfl, functionCode _⟩
theorem rtuRespWriteFc05 : Statement .rtuRespWriteFc05 := ⟨.inl rfl, functionCode _⟩
theorem rtuRespWriteFc06 : Statement .rtuRespWriteFc06 := ⟨.inl rfl, functionCode _⟩
theorem rtuRespWriteFc0F : Statement .rtuRespWriteFc0F := ⟨.inl rfl, functionCode _⟩
theorem rtuRespWriteFc10 : Statement .rtuRespWriteFc10 := ⟨.inl rfl, functionCode _⟩
theorem rtuRespUnsupported (fc : Byte) : Statement (.rtuRespUnsupported fc) := ⟨.inl rfl, functionCode _⟩

end Sys2Proof.Laws.EncodingFits
end

