-- ==== Sys2Proof/Tests/Slice0.lean ====
section
/-! SUPPORT. The model's own tests: ill-formed instructions, decoded words, one-step meanings with results taken from
spec/95_test_vectors.md, and a witness for the hypotheses of every statement. -/

namespace Sys2Proof.Tests

open Sys2Proof.Machine

/-! ### Well-formedness -/

theorem test_wf_exception : (Instr.rtuRespException 0x80).wf = true ∧ (Instr.rtuRespException 0xFF).wf = true := by decide

/-- A byte with bit 7 clear is no exception (R123). -/
theorem test_wf_exception_refused :
    (Instr.rtuRespException 0x03).wf = false ∧ (Instr.rtuRespException 0x7F).wf = false := by decide

theorem test_wf_unsupported :
    (Instr.rtuRespUnsupported 0x00).wf = true ∧ (Instr.rtuRespUnsupported 0x2B).wf = true := by decide

/-- A byte that an earlier row of R132 matches is not unsupported. -/
theorem test_wf_unsupported_refused :
    (Instr.rtuRespUnsupported 0x83).wf = false ∧ (Instr.rtuRespUnsupported 0x03).wf = false ∧
    (Instr.rtuRespUnsupported 0x10).wf = false := by decide

/-! ### Decoding: words written out from the tables of R114 and R132 -/

theorem test_decode_crc :
    decodeTableWord 32 0x00000001 = some .crcInit ∧
    decodeTableWord 32 0x00000002 = some .crcWrite ∧
    decodeTableWord 32 0x00000003 = some .crcRead ∧
    decodeTableWord 32 0x00000004 = some .crcChecksum := by decide

theorem test_decode_frame_builder :
    decodeTableWord 32 0x00000010 = some .fbReset ∧
    decodeTableWord 32 0x00000011 = some .fbAppendBytes ∧
    decodeTableWord 32 0x00000012 = some .fbAppendU16 ∧
    decodeTableWord 32 0x00000013 = some .fbFinalizeRaw ∧
    decodeTableWord 32 0x00000014 = some .fbFinalizeCrc := by decide

theorem test_decode_new :
    decodeTableWord 32 0x00000020 = some .newRbq ∧
    decodeTableWord 32 0x00000021 = some .newRbs ∧
    decodeTableWord 32 0x00000022 = some .newWsbq ∧
    decodeTableWord 32 0x00000023 = some .newWsbs ∧
    decodeTableWord 32 0x00000024 = some .newWmbq ∧
    decodeTableWord 32 0x00000025 = some .newWmbs ∧
    decodeTableWord 32 0x00000026 = some .newRrq ∧
    decodeTableWord 32 0x00000027 = some .newRrs ∧
    decodeTableWord 32 0x00000028 = some .newWsrq ∧
    decodeTableWord 32 0x00000029 = some .newWsrs ∧
    decodeTableWord 32 0x0000002A = some .newWmrq ∧
    decodeTableWord 32 0x0000002B = some .newWmrs ∧
    decodeTableWord 32 0x0000002C = some .newExc ∧
    decodeTableWord 32 0x0000002D = some .newRaw := by decide

theorem test_decode_marshal :
    decodeTableWord 32 0x00000030 = some .marshalRbq ∧
    decodeTableWord 32 0x00000031 = some .marshalRbs ∧
    decodeTableWord 32 0x00000032 = some .marshalWsbq ∧
    decodeTableWord 32 0x00000033 = some .marshalWsbs ∧
    decodeTableWord 32 0x00000034 = some .marshalWmbq ∧
    decodeTableWord 32 0x00000035 = some .marshalWmbs ∧
    decodeTableWord 32 0x00000036 = some .marshalRrq ∧
    decodeTableWord 32 0x00000037 = some .marshalRrs ∧
    decodeTableWord 32 0x00000038 = some .marshalWsrq ∧
    decodeTableWord 32 0x00000039 = some .marshalWsrs ∧
    decodeTableWord 32 0x0000003A = some .marshalWmrq ∧
    decodeTableWord 32 0x0000003B = some .marshalWmrs ∧
    decodeTableWord 32 0x0000003C = some .marshalExc ∧
    decodeTableWord 32 0x0000003D = some .marshalRaw := by decide

theorem test_decode_unmarshal :
    decodeTableWord 32 0x00000040 = some .unmarshalRbq ∧
    decodeTableWord 32 0x00000041 = some .unmarshalRbs ∧
    decodeTableWord 32 0x00000042 = some .unmarshalWsbq ∧
    decodeTableWord 32 0x00000043 = some .unmarshalWsbs ∧
    decodeTableWord 32 0x00000044 = some .unmarshalWmbq ∧
    decodeTableWord 32 0x00000045 = some .unmarshalWmbs ∧
    decodeTableWord 32 0x00000046 = some .unmarshalRrq ∧
    decodeTableWord 32 0x00000047 = some .unmarshalRrs ∧
    decodeTableWord 32 0x00000048 = some .unmarshalWsrq ∧
    decodeTableWord 32 0x00000049 = some .unmarshalWsrs ∧
    decodeTableWord 32 0x0000004A = some .unmarshalWmrq ∧
    decodeTableWord 32 0x0000004B = some .unmarshalWmrs ∧
    decodeTableWord 32 0x0000004C = some .unmarshalExc ∧
    decodeTableWord 32 0x0000004D = some .unmarshalRaw := by decide

theorem test_decode_generic :
    decodeTableWord 32 0x00000050 = some .decodeResponse ∧
    decodeTableWord 32 0x00000051 = some .bytesToBools ∧
    decodeTableWord 32 0x00000052 = some .boolsToBytes ∧
    decodeTableWord 32 0x00000053 = some .regsToU16 ∧
    decodeTableWord 32 0x00000054 = some .regsToF32 ∧
    decodeTableWord 32 0x00000055 = some .pduFc := by decide

theorem test_decode_transport_and_csr :
    decodeTableWord 32 0x00001160 = some (.rtuWriteRequest 0x11) ∧
    decodeTableWord 32 0x00000061 = some .rtuClose ∧
    decodeTableWord 32 0x0000FF70 = some (.tcpWriteRequest 0xFF) ∧
    decodeTableWord 32 0x00000071 = some .tcpClose ∧
    decodeTableWord 32 0x00000780 = some (.csrRead 7) ∧
    decodeTableWord 32 0x00000181 = some (.csrWrite 1) := by decide

theorem test_decode_reinterpret :
    decodeTableWord 32 0x00000090 = some .reinterpretRbq ∧
    decodeTableWord 32 0x00000091 = some .reinterpretRbs ∧
    decodeTableWord 32 0x00000092 = some .reinterpretWsbq ∧
    decodeTableWord 32 0x00000093 = some .reinterpretWsbs ∧
    decodeTableWord 32 0x00000094 = some .reinterpretWmbq ∧
    decodeTableWord 32 0x00000095 = some .reinterpretWmbs ∧
    decodeTableWord 32 0x00000096 = some .reinterpretRrq ∧
    decodeTableWord 32 0x00000097 = some .reinterpretRrs ∧
    decodeTableWord 32 0x00000098 = some .reinterpretWsrq ∧
    decodeTableWord 32 0x00000099 = some .reinterpretWsrs ∧
    decodeTableWord 32 0x0000009A = some .reinterpretWmrq ∧
    decodeTableWord 32 0x0000009B = some .reinterpretWmrs ∧
    decodeTableWord 32 0x0000009C = some .reinterpretExc ∧
    decodeTableWord 32 0x0000009D = some .reinterpretRaw := by decide

theorem test_decode_response_classes :
    decodeTableWord 8 0x80 = some (.rtuRespException 0x80) ∧ decodeTableWord 8 0xFF = some (.rtuRespException 0xFF) ∧
    decodeTableWord 8 0x01 = some .rtuRespReadFc01 ∧ decodeTableWord 8 0x02 = some .rtuRespReadFc02 ∧
    decodeTableWord 8 0x03 = some .rtuRespReadFc03 ∧ decodeTableWord 8 0x04 = some .rtuRespReadFc04 ∧
    decodeTableWord 8 0x05 = some .rtuRespWriteFc05 ∧ decodeTableWord 8 0x06 = some .rtuRespWriteFc06 ∧
    decodeTableWord 8 0x0F = some .rtuRespWriteFc0F ∧ decodeTableWord 8 0x10 = some .rtuRespWriteFc10 ∧
    decodeTableWord 8 0x00 = some (.rtuRespUnsupported 0x00) ∧
    decodeTableWord 8 0x2B = some (.rtuRespUnsupported 0x2B) := by decide

/-- The illegal words of 95_test_vectors, section 2.1, each rejected by the name of its defect. -/
theorem test_decode_illegal :
    decodeCommand 0x00000000 = .error .reservedOp ∧ decodeCommand 0x0000002E = .error .reservedVariant ∧
    decodeCommand 0x0000009F = .error .reservedVariant ∧ decodeCommand 0x00010001 = .error .reservedBits ∧
    decodeCommand 0x00000101 = .error .argument ∧ decodeCommand 0x80000060 = .error .reservedBits ∧
    decodeCommand 0x00000056 = .error .reservedOp ∧ decodeCommand 0x000001FF = .error .reservedOp := by
  refine ⟨rfl, rfl, rfl, rfl, rfl, rfl, rfl, rfl⟩

/-! ### One step of a placed instruction -/

/-- The state an answer leads to, tested. -/
def nexts (a : Answer) (f : State → Bool) : Bool :=
  match a with
  | .next t => f t
  | .fault _ | .refused _ => false

/-- The reset state with an operand bundle at the command port of host 0. -/
def given (ops : Operands) : State := { State.reset with port := { ops := ops } }

/-- Instruction `i` on these operands ends with result `r`. -/
def gives (i : Instr) (ops : Operands) (r : Result) : Bool :=
  nexts (exec i (given ops)) fun t => decide (t.results.get 0 = some r)

/-- As `gives`, with the PDU as the result. -/
def yields (i : Instr) (ops : Operands) (p : PDU) : Bool := gives i ops (Result.okPdu p)

/-- As `gives`, with a validation error. -/
def invalid (i : Instr) (ops : Operands) (d : Detail) : Bool := gives i ops (Result.err .errValidation d)

/-- As `gives`, with a decode error. -/
def undecodable (i : Instr) (ops : Operands) (d : Detail) : Bool := gives i ops (Result.err .errDecode d)

/-- A placed command word is the first thing that runs after reset (section 2.1's `CRC_INIT`). -/
theorem test_place_command :
    nexts (step (State.reset.withFetchWord 32 0x00000001)) (fun t => decide (t.results.get 1 = some Result.done)) = true := by
  decide

/-- A placed function-code byte is classified by the very next step. -/
theorem test_place_response :
    nexts (step (State.reset.withFetchWord 8 0x03)) (fun t => decide (t.rtuPhase = .len ∧ t.rtuNeed = 3)) = true := by decide

/-- An illegal word ends with `Err(ERR_ILLEGAL_OP, DT_ENCODING)` (section 2.1). -/
theorem test_illegal_word :
    nexts (runEvent (.issue 4 0x0000002E {} 0) State.reset)
      (fun t => decide (t.results.get 4 = some (Result.err .errIllegalOp .encoding))) = true := by decide

/-! ### CRC-16 engine (section 2.2) -/

theorem test_crc_vectors :
    crc16 [] = 0xFFFF ∧ crc16 [0x00] = 0x40BF ∧ crc16 [0x02, 0x07] = 0x1241 ∧ crc16 [0xFF, 0xFF] = 0x0000 ∧
    crc16 [0x31, 0x32, 0x33, 0x34, 0x35, 0x36, 0x37, 0x38, 0x39] = 0x4B37 ∧
    crc16 [0x11, 0x01, 0x00, 0x13, 0x00, 0x13] = 0x928E ∧ crc16 [0x02, 0x07, 0x41, 0x12] = 0x0000 := by decide +kernel

theorem test_crc_init :
    nexts (exec .crcInit { given {} with crc := 0x30BA })
      (fun t => decide (t.crc = 0xFFFF ∧ t.results.get 0 = some Result.done)) = true := by decide

/-- The second half of `"123456789"`, from the CRC of the first. -/
theorem test_crc_write :
    nexts (exec .crcWrite { given { data := [0x35, 0x36, 0x37, 0x38, 0x39] } with crc := 0x30BA })
      (fun t => decide (t.crc = 0x4B37)) = true := by decide +kernel

theorem test_crc_read :
    nexts (exec .crcRead { given {} with crc := 0x30BA })
      (fun t => decide (t.results.get 0 = some (Result.okValue 0x30BA))) = true := by decide

/-- The one-shot checksum leaves the register alone. -/
theorem test_crc_checksum :
    nexts (exec .crcChecksum { given { data := [0x00] } with crc := 0x30BA })
      (fun t => decide (t.results.get 0 = some (Result.okValue 0x40BF) ∧ t.crc = 0x30BA)) = true := by decide +kernel

/-! ### Frame Builder (section 2.3) -/

theorem test_fb_reset :
    nexts (exec .fbReset { given {} with fbBuf := [0x02, 0x07] }) (fun t => t.fbBuf.isEmpty) = true := by decide

theorem test_fb_append_bytes :
    nexts (exec .fbAppendBytes { given { data := [0x07] } with fbBuf := [0x02] })
      (fun t => decide (t.fbBuf = [0x02, 0x07])) = true := by decide

theorem test_fb_append_u16 :
    nexts (exec .fbAppendU16 (given { words := [0x0013, 0xFF00] }))
      (fun t => decide (t.fbBuf = [0x00, 0x13, 0xFF, 0x00])) = true := by decide

theorem test_fb_finalize_raw : gives .fbFinalizeRaw {} (Result.okData []) = true := by decide

theorem test_fb_finalize_crc :
    nexts (exec .fbFinalizeCrc { given {} with fbBuf := [0x02, 0x07] })
      (fun t => decide (t.results.get 0 = some (Result.okData [0x02, 0x07, 0x41, 0x12]) ∧ t.fbBuf = [0x02, 0x07])) = true := by
  decide +kernel

/-! ### Bit variants (section 2.4) -/

theorem test_rbq :
    invalid .newRbq { n0 := 0, n1 := 0, n2 := 1 } .fc ∧ invalid .newRbq { n0 := 0x80, n1 := 0, n2 := 1 } .fc ∧
    invalid .newRbq { n0 := 1, n1 := 0x10000, n2 := 1 } .width ∧
    yields .newRbq { n0 := 1, n1 := 0xFFFE, n2 := 1 } (.rbq 1 0xFFFE 1) ∧
    invalid .newRbq { n0 := 1, n1 := 0xFFFF, n2 := 1 } .addr ∧ invalid .newRbq { n0 := 1, n1 := 0xF830, n2 := 2000 } .addr := by
  decide

theorem test_rbq_wire :
    gives .marshalRbq { pdu := .rbq 1 19 19 } (Result.okData [0x01, 0x00, 0x13, 0x00, 0x13]) ∧
    undecodable .unmarshalRbq { data := [0x01, 0x00, 0x13, 0x00, 0x13, 0x00] } .frameLen ∧
    undecodable .unmarshalRbq { data := [0x01, 0x00, 0x13, 0x00, 0x00] } .count ∧
    gives .marshalRbq { pdu := .rrq 3 0 2 } (Result.err .errIllegalOp .operand) := by decide

theorem test_rbs :
    yields .newRbs { n0 := 1 } (.rbs 1 []) ∧ invalid .newRbs { n0 := 1, data := List.replicate 252 0 } .len ∧
    yields .newRbs { n0 := 1, data := List.replicate 251 0 } (.rbs 1 (List.replicate 251 0)) := by decide +kernel

theorem test_rbs_wire :
    gives .marshalRbs { pdu := .rbs 1 [] } (Result.okData [0x01, 0x00]) ∧
    yields .unmarshalRbs { data := [0x01, 0x03, 0xCD, 0x6B, 0x05] } (.rbs 1 [0xCD, 0x6B, 0x05]) ∧
    undecodable .unmarshalRbs { data := [0x01, 0x02, 0xCD, 0x6B, 0x05] } .byteCount ∧
    undecodable .unmarshalRbs { data := [0x01] } .frameLen := by decide

theorem test_wsbq :
    yields .newWsbq { n0 := 5, n1 := 0xAC, n2 := 1 } (.wsbq 5 0xAC true) ∧
    invalid .newWsbq { n0 := 5, n1 := 0xAC, n2 := 2 } .width := by decide

theorem test_wsbq_wire :
    gives .marshalWsbq { pdu := .wsbq 5 0xAC true } (Result.okData [0x05, 0x00, 0xAC, 0xFF, 0x00]) ∧
    gives .marshalWsbq { pdu := .wsbq 5 0xAC false } (Result.okData [0x05, 0x00, 0xAC, 0x00, 0x00]) ∧
    undecodable .unmarshalWsbq { data := [0x05, 0x00, 0xAC, 0x00, 0x01] } .coilValue := by decide

theorem test_wsbs :
    yields .newWsbs { n0 := 5, n1 := 0xAC, n2 := 0 } (.wsbs 5 0xAC false) ∧
    gives .marshalWsbs { pdu := .wsbs 5 0xAC true } (Result.okData [0x05, 0x00, 0xAC, 0xFF, 0x00]) ∧
    yields .unmarshalWsbs { data := [0x05, 0x00, 0xAC, 0xFF, 0x00] } (.wsbs 5 0xAC true) := by decide

theorem test_wmbq :
    yields .newWmbq { n0 := 0x0F, n1 := 0x13, n2 := 10, data := [0xCD, 0x01] } (.wmbq 0x0F 0x13 10 [0xCD, 0x01]) ∧
    yields .newWmbq { n0 := 0x0F } (.wmbq 0x0F 0 0 []) ∧
    invalid .newWmbq { n0 := 0x0F, n2 := 0x7B1, data := List.replicate 247 0 } .count := by decide +kernel

theorem test_wmbq_wire :
    gives .marshalWmbq { pdu := .wmbq 0x0F 0x13 10 [0xCD, 0x01] }
      (Result.okData [0x0F, 0x00, 0x13, 0x00, 0x0A, 0x02, 0xCD, 0x01]) ∧
    undecodable .unmarshalWmbq { data := [0x0F, 0x00, 0x13, 0x00, 0x0A, 0x03, 0xCD, 0x01] } .byteCount := by decide

theorem test_wmbs :
    yields .newWmbs { n0 := 0x0F, n1 := 0x13, n2 := 10 } (.wmbs 0x0F 0x13 10) ∧
    gives .marshalWmbs { pdu := .wmbs 0x0F 0x13 10 } (Result.okData [0x0F, 0x00, 0x13, 0x00, 0x0A]) ∧
    yields .unmarshalWmbs { data := [0x0F, 0x00, 0x13, 0x00, 0x0A] } (.wmbs 0x0F 0x13 10) := by decide

/-! ### Register variants (section 2.5) -/

theorem test_rrq :
    yields .newRrq { n0 := 3, n1 := 0, n2 := 125 } (.rrq 3 0 125) ∧ invalid .newRrq { n0 := 3, n1 := 0, n2 := 126 } .count ∧
    invalid .newRrq { n0 := 3, n1 := 0x80, n2 := 0x80 } .addr ∧ invalid .newRrq { n0 := 3, n1 := 0x100, n2 := 0 } .addr ∧
    yields .newRrq { n0 := 3 } (.rrq 3 0 0) := by decide

theorem test_rrq_wire :
    gives .marshalRrq { pdu := .rrq 3 0 10 } (Result.okData [0x03, 0x00, 0x00, 0x00, 0x0A]) ∧
    undecodable .unmarshalRrq { data := [0x03, 0x01, 0x00, 0x00, 0x01] } .addr := by decide

theorem test_rrs :
    invalid .newRrs { n0 := 3, data := [0x00, 0x0A, 0x00] } .len ∧
    invalid .newRrs { n0 := 3, data := List.replicate 252 0 } .len := by decide +kernel

theorem test_rrs_wire :
    gives .marshalRrs { pdu := .rrs 3 [0x00, 0x0A] } (Result.okData [0x03, 0x02, 0x00, 0x0A]) ∧
    yields .unmarshalRrs { data := [0x03, 0x04, 0x00, 0x0A, 0x00, 0x0B] } (.rrs 3 [0x00, 0x0A, 0x00, 0x0B]) ∧
    undecodable .unmarshalRrs { data := [0x03, 0x03, 0x00, 0x0A, 0x00] } .len ∧
    undecodable .unmarshalRrs { data := [0x83, 0x02] } .byteCount := by decide

theorem test_wsrq :
    invalid .newWsrq { n0 := 6, n1 := 1, data := [0x00] } .len ∧
    gives .marshalWsrq { pdu := .wsrq 6 1 [0x00, 0x03] } (Result.okData [0x06, 0x00, 0x01, 0x00, 0x03]) ∧
    yields .unmarshalWsrq { data := [0x06, 0x00, 0x01, 0x00, 0x03] } (.wsrq 6 1 [0x00, 0x03]) := by decide

theorem test_wsrs :
    yields .newWsrs { n0 := 6, n1 := 1, data := [0x00, 0x03] } (.wsrs 6 1 [0x00, 0x03]) ∧
    gives .marshalWsrs { pdu := .wsrs 6 1 [0x00, 0x03] } (Result.okData [0x06, 0x00, 0x01, 0x00, 0x03]) ∧
    undecodable .unmarshalWsrs { data := [0x06, 0x00, 0x01, 0x00] } .frameLen := by decide

theorem test_wmrq :
    invalid .newWmrq { n0 := 0x10, n1 := 1 } .count ∧
    invalid .newWmrq { n0 := 0x10, n1 := 1, n2 := 0x7C, data := List.replicate 248 0 } .count ∧
    invalid .newWmrq { n0 := 0x10, n1 := 1, n2 := 2, data := [0x00, 0x0A, 0x01] } .len := by decide +kernel

theorem test_wmrq_wire :
    gives .marshalWmrq { pdu := .wmrq 0x10 1 2 [0x00, 0x0A, 0x01, 0x02] }
      (Result.okData [0x10, 0x00, 0x01, 0x00, 0x02, 0x04, 0x00, 0x0A, 0x01, 0x02]) ∧
    undecodable .unmarshalWmrq { data := [0x10, 0x00, 0x01, 0x00, 0x02, 0x02, 0x00, 0x01] } .len := by decide

theorem test_wmrs :
    yields .newWmrs { n0 := 0x10, n1 := 1, n2 := 10 } (.wmrs 0x10 1 10) ∧
    gives .marshalWmrs { pdu := .wmrs 0x10 1 10 } (Result.okData [0x10, 0x00, 0x01, 0x00, 0x0A]) ∧
    yields .unmarshalWmrs { data := [0x10, 0x00, 0x01, 0x00, 0x0A] } (.wmrs 0x10 1 10) := by decide

/-! ### Exception, raw, generic commands and CSRs (section 2.6) -/

theorem test_exc :
    yields .newExc { n0 := 0x81, n1 := 1 } (.exc 0x81 1) ∧ invalid .newExc { n0 := 0x7F, n1 := 0 } .errCode ∧
    gives .marshalExc { pdu := .exc 0xFF 0xFF } (Result.okData [0xFF, 0xFF]) ∧
    undecodable .unmarshalExc { data := [0x83, 0x02, 0x00] } .frameLen := by decide

theorem test_raw :
    invalid .newRaw { data := [0x03] } .len ∧ yields .unmarshalRaw { data := [0x83, 0x02] } (.raw 0x83 0x02 []) ∧
    gives .marshalRaw { pdu := .raw 0x83 0x02 [0x01] } (Result.okData [0x83, 0x02, 0x01]) := by decide

theorem test_reinterpret :
    yields .reinterpretRrs { pdu := .raw 0x03 0x04 [0x00, 0x0A, 0x00, 0x0B] } (.rrs 3 [0x00, 0x0A, 0x00, 0x0B]) ∧
    yields .reinterpretRaw { pdu := .rbq 1 19 19 } (.raw 0x01 0x00 [0x13, 0x00, 0x13]) ∧
    undecodable .reinterpretWmrs { pdu := .raw 0x83 0x02 [] } .frameLen ∧
    undecodable .reinterpretWmbs { pdu := .raw 0x0F 0x00 [0x13, 0x00, 0x0A, 0x02, 0xCD, 0x01] } .frameLen := by decide

theorem test_decode_response :
    yields .decodeResponse { pdu := .rrq 3 0 10, pdu2 := .raw 0x83 0x02 [] } (.exc 0x83 2) ∧
    yields .decodeResponse { pdu := .rrq 3 0 10, pdu2 := .raw 0x03 0x04 [0x00, 0x0A, 0x00, 0x0B] }
      (.rrs 3 [0x00, 0x0A, 0x00, 0x0B]) ∧
    undecodable .decodeResponse { pdu := .rrq 3 0 10, pdu2 := .raw 0x84 0x02 [] } .byteCount ∧
    undecodable .decodeResponse { pdu := .rrs 3 [], pdu2 := .raw 0x03 0x00 [] } .noResponseShape := by decide

theorem test_pdu_fc : gives .pduFc { pdu := .raw 0x83 0x02 [] } (Result.okValue 0x83) = true := by decide

theorem test_bytes_to_bools :
    gives .bytesToBools { data := [0xCD, 0x01] }
      { status := .ok
        bools := some [true, false, true, true, false, false, true, true, true, false, false, false, false, false, false,
          false] } = true := by decide

theorem test_bools_to_bytes :
    gives .boolsToBytes { bools := [true, false, true, true, false, false, true, true, true, false] }
      (Result.okData [0xCD, 0x01]) ∧
    gives .boolsToBytes {} (Result.okData []) := by decide

theorem test_regs_to_u16 :
    gives .regsToU16 { data := [0x00, 0x0A, 0x00, 0x0B] } { status := .ok, words := some [0x000A, 0x000B] } ∧
    undecodable .regsToU16 { data := [0x00, 0x0A, 0x00] } .oddWords := by decide

theorem test_regs_to_f32 :
    gives .regsToF32 { data := [0x0F, 0xDB, 0xC0, 0x49, 0xE9, 0x79, 0x42, 0xF6] }
      { status := .ok, floats := some [0xC0490FDB, 0x42F6E979] } ∧
    undecodable .regsToF32 { data := [0x3F, 0x80] } .oddWords := by decide

theorem test_csr_read :
    gives (.csrRead 0) {} (Result.okValue 300) ∧ gives (.csrRead 3) {} (Result.okValue 6) ∧
    gives (.csrRead 8) {} (Result.err .errIllegalOp .csr) := by decide

theorem test_csr_write :
    gives (.csrWrite 2) { n0 := 1 } (Result.err .errIllegalOp .csr) ∧
    nexts (exec (.csrWrite 1) (given { n0 := 0 })) (fun t => decide (t.cfgTcpReqTimeoutMs = 0 ∧ t.cfgRtuReadTimeoutMs = 300)) := by
  decide

/-! ### Serial transport (section 2.7) -/

/-- A framer that has sent to slave 0x11 and reads the response. -/
def reading (phase : RtuPhase) (need : Nat) (rx input : Bytes) : State :=
  { State.reset with
    rtuPhase := phase, rtuHost := some 0, rtuAddr := 0x11, rtuRx := rx, rtuNeed := need, rtuDeadline := 300, serIn := input }

theorem test_rtu_frame :
    rtuFrame 0x11 [0x03, 0x00, 0x00, 0x00, 0x02] = [0x11, 0x03, 0x00, 0x00, 0x00, 0x02, 0xC6, 0x9B] ∧
    rtuFrame 0x00 [0x06, 0x00, 0x01, 0x00, 0x03] = [0x00, 0x06, 0x00, 0x01, 0x00, 0x03, 0x99, 0xDA] := by decide +kernel

theorem test_rtu_write_request :
    nexts (exec (.rtuWriteRequest 0x11) (given { pdu := .rrq 3 0 2 }))
      (fun t => decide (t.rtuPhase = .send ∧ t.rtuTx = [0x11, 0x03, 0x00, 0x00, 0x00, 0x02, 0xC6, 0x9B])) = true := by
  decide +kernel

/-- A request while one is in progress raises `F_RTU_BUSY` (`STAT_FAULT = 1`). -/
theorem test_rtu_busy :
    nexts (exec (.rtuWriteRequest 0x11) (reading .hdr 2 [] [])) (fun t => decide (statFault t = 1)) = true := by
  decide +kernel

theorem test_rtu_close :
    nexts (exec .rtuClose (given {}))
      (fun t => decide (t.rtuPhase = .closed ∧ t.serOpen = false ∧ t.results.get 0 = some Result.done)) = true := by decide

theorem test_rtu_response_classes :
    nexts (exec (.rtuRespException 0x83) (reading .hdr 2 [] [])) (fun t => decide (t.rtuNeed = 5 ∧ t.rtuPhase = .body)) ∧
    nexts (exec .rtuRespReadFc01 (reading .hdr 2 [] [])) (fun t => decide (t.rtuNeed = 3 ∧ t.rtuPhase = .len)) ∧
    nexts (exec .rtuRespReadFc02 (reading .hdr 2 [] [])) (fun t => decide (t.rtuNeed = 3 ∧ t.rtuPhase = .len)) ∧
    nexts (exec .rtuRespReadFc03 (reading .hdr 2 [] [])) (fun t => decide (t.rtuNeed = 3 ∧ t.rtuPhase = .len)) ∧
    nexts (exec .rtuRespReadFc04 (reading .hdr 2 [] [])) (fun t => decide (t.rtuNeed = 3 ∧ t.rtuPhase = .len)) ∧
    nexts (exec .rtuRespWriteFc05 (reading .hdr 2 [] [])) (fun t => decide (t.rtuNeed = 8 ∧ t.rtuPhase = .body)) ∧
    nexts (exec .rtuRespWriteFc06 (reading .hdr 2 [] [])) (fun t => decide (t.rtuNeed = 8 ∧ t.rtuPhase = .body)) ∧
    nexts (exec .rtuRespWriteFc0F (reading .hdr 2 [] [])) (fun t => decide (t.rtuNeed = 8 ∧ t.rtuPhase = .body)) ∧
    nexts (exec .rtuRespWriteFc10 (reading .hdr 2 [] [])) (fun t => decide (t.rtuNeed = 8 ∧ t.rtuPhase = .body)) := by
  decide

theorem test_rtu_unsupported :
    nexts (runEvent .rtuRead (reading .hdr 2 [0x11] [0x2B, 0x55])) (fun t => decide (t.rtuPhase = .idle ∧ t.serIn = [0x55] ∧
      t.results.get 0 = some { status := .errUnsupportedFc, detail := some .none, value := some 0x2B })) = true := by decide

theorem test_rtu_bad_crc :
    nexts (runEvent .rtuRead (reading .body 8 [0x01, 0x10, 0x00, 0x01, 0x00, 0x0A, 0x11] [0xCF]))
      (fun t => decide (t.results.get 0 = some
        { status := .errBadCrc
          detail := some .none
          got := some 0xCF11
          want := some 0xCE11
          frame := some [0x01, 0x10, 0x00, 0x01, 0x00, 0x0A, 0x11, 0xCF] })) = true := by decide +kernel

theorem test_rtu_good_crc :
    nexts (runEvent .rtuRead (reading .body 5 [0x11, 0x83, 0x02, 0xC1] [0x34]))
      (fun t => decide (t.results.get 0 = some (Result.okPdu (.raw 0x83 0x02 [])))) = true := by decide +kernel

theorem test_rtu_short_write :
    nexts (runEvent (.rtuSend 7 false) { reading .send 0 [] [] with rtuTx := List.replicate 8 0 })
      (fun t => decide (t.rtuPhase = .idle ∧ t.results.get 0 = some (Result.err .errIoWrite .short))) = true := by
  decide +kernel

/-! ### Stream transport (section 2.8) -/

/-- A request of host 0 for unit 1, registered under id 0. -/
def waiting : Waiter :=
  { host := 0, unit := 1, req := .rrq 3 0 2, tid := 0, t0 := 0, tmo := 500, signal := none, phase := .wait }

/-- The stream transport with that request in flight and bytes from the peer. -/
def awaiting (st : TrState) (input : Bytes) : State :=
  { State.reset with
    tcpTid := 1
    tcpMap := [(0, { unit := 1, req := .rrq 3 0 2, waiter := 0 })]
    waiters := [waiting]
    trState := st
    tcpIn := input }

theorem test_mbap_frame :
    mbapFrame 0xFFFF 0x07 [0x83, 0x02] = [0xFF, 0xFF, 0x00, 0x00, 0x00, 0x03, 0x07, 0x83, 0x02] ∧
    mbapFrame 0x0001 0x02 [0x01, 0x00, 0x13, 0x00, 0x13] =
      [0x00, 0x01, 0x00, 0x00, 0x00, 0x06, 0x02, 0x01, 0x00, 0x13, 0x00, 0x13] := by decide

theorem test_tcp_write_request :
    nexts (exec (.tcpWriteRequest 1) (given { pdu := .rrq 3 0 2 }))
      (fun t => decide (t.waiters = [{ waiting with phase := .check }])) = true := by decide

theorem test_tcp_close :
    nexts (exec .tcpClose (awaiting (.rdHdr []) [])) (fun t => decide (statTcp t = 1 ∧ t.tcpMap = [] ∧
      t.waiters = [{ waiting with signal := some (closedError .none) }])) = true := by decide

/-- The `ERR_CLOSED` of a second close carries `tcp_fatal` (row 0x09 of R461). -/
theorem test_tcp_close_again :
    nexts (exec .tcpClose { State.reset with tcpClosed := true, tcpFatal := .unknownTid, port := { draw := 1 } })
      (fun t => decide (t.results.get 0 =
        some { status := .errClosed, detail := some .closed, value := some 2 })) = true := by decide

/-- Ids wrap from 0xFFFF to 0. -/
theorem test_tid_wrap :
    nexts (runEvent (.waiterRun 0) { State.reset with tcpTid := 0xFFFF, waiters := [{ waiting with phase := .alloc }] })
      (fun t => decide (t.tcpTid = 0 ∧ t.waiters = [{ waiting with tid := 0xFFFF, phase := .reg }])) = true := by decide

/-- The headers of section 2.8 and the fatal causes they give. -/
theorem test_reader_headers :
    nexts (runEvent .trRead (awaiting (.rdHdr [0, 0, 0, 1, 0, 3]) [1])) (fun t => decide (t.tcpFatal = .protocolId)) ∧
    nexts (runEvent .trRead (awaiting (.rdHdr [0, 5, 0, 0, 0, 3]) [1])) (fun t => decide (t.tcpFatal = .unknownTid)) ∧
    nexts (runEvent .trRead (awaiting (.rdHdr [0, 0, 0, 0, 0, 3]) [9])) (fun t => decide (t.tcpFatal = .unitMismatch)) ∧
    nexts (runEvent .trRead (awaiting (.rdHdr [0, 0, 0, 0, 0, 0]) [1])) (fun t => decide (t.tcpFatal = .length)) ∧
    nexts (runEvent .trRead (awaiting (.rdHdr [0, 5, 0, 1, 0, 3]) [9])) (fun t => decide (t.tcpFatal = .protocolId)) ∧
    nexts (runEvent .trRead (awaiting (.rdHdr [0, 0, 0, 0, 0, 1]) [1]))
      (fun t => decide (t.waiters = [{ waiting with signal := some shortPdu }] ∧ t.trState = .rdHdr [])) := by decide

theorem test_reader_body :
    nexts (runEvent .trRead (awaiting (.rdBody 0 1 2 [0x83]) [0x02]))
      (fun t => decide (t.waiters = [{ waiting with signal := some (Result.okPdu (.raw 0x83 0x02 [])) }] ∧ t.tcpMap = [])) = true := by
  decide

/-! ### Witnesses: concrete states and operands that meet the hypotheses of the statements, clause by clause -/

/-- The reset state with integer operands and data. -/
def with3 (n0 n1 n2 : U32) (data : Bytes := []) : State := given { n0 := n0, n1 := n1, n2 := n2, data := data }

/-- The reset state with these inputs next. -/
def next (events : List Event) : State := { State.reset with script := events }

/-- The reset state with a PDU operand. -/
def holding (p : PDU) : State := given { pdu := p }

/-- Some next state of a step meets a test. -/
theorem exists_of_nexts {a : Answer} {f : State → Bool} (h : nexts a f = true) : ∃ t, a = .next t ∧ f t = true := by
  cases a with
  | next t => exact ⟨t, rfl, h⟩
  | fault r => cases h
  | refused r => cases h

theorem witness_StepTakesTheNextEvent :
    (next [.tick]).script = .tick :: [] ∧ State.reset.script = [] ∧
    Healthy State.reset ∧ eventEnabled (.consume 0) State.reset = false := ⟨rfl, rfl, rfl, rfl⟩

theorem witness_StepRunsTheDecodedCommand :
    let s := next [.issue 3 0x0000FF60 {} 0]
    s.script = .issue 3 0x0000FF60 {} 0 :: [] ∧ Healthy s ∧ hostReady 3 s = true ∧ ({} : Operands).valid = true ∧
    decodeCommand 0x0000FF60 = .ok (.rtuWriteRequest 0xFF) := ⟨rfl, rfl, rfl, rfl, rfl⟩

theorem witness_StepRunsTheResponseClass :
    let s := { reading .hdr 2 [0x11] [0x83, 0x02] with script := [.rtuRead], now := 299 }
    s.script = .rtuRead :: [] ∧ Healthy s ∧ s.rtuPhase = .hdr ∧ s.rtuNeed = 2 ∧ s.rtuRx = [s.rtuAddr] ∧
    s.serIn = 0x83 :: [0x02] ∧ s.now < s.rtuDeadline := ⟨rfl, rfl, rfl, rfl, rfl, rfl, by decide⟩

theorem witness_IllegalWordsChangeNoState :
    LegalWord 0x0000FF81 ∧ ¬ LegalWord 0x0000002E ∧ ¬ LegalWord 0x00010060 ∧ ¬ LegalWord 0x00000101 ∧
    Healthy State.reset ∧ hostReady 0 State.reset = true ∧ ({} : Operands).valid = true := by
  refine ⟨?_, ?_, ?_, ?_, rfl, rfl, rfl⟩ <;> unfold LegalWord <;> decide

theorem witness_DecodingInvertsEncoding :
    (Instr.csrWrite 0xFF).wf = true ∧ (Instr.rtuRespException 0x80).wf = true ∧
    (Instr.rtuRespUnsupported 0x7F).wf = true := by decide

theorem witness_EncodingInvertsDecoding :
    decodeTableWord 8 0xFF = some (.rtuRespException 0xFF) ∧ decodeTableWord 32 0x9D = some .reinterpretRaw := by decide

theorem witness_PseudoCommandsBuildTheTransportFrames :
    (PDU.raw 0 0 (List.replicate 0xFFFC 0)).marshal.length ≤ 0xFFFE := by
  simp only [PDU.marshal, List.length_cons, List.length_replicate]; omega

/-- The operand fields of `with3`, and the boundary values of every clause. -/
theorem witness_BitConstructorsValidate :
    (∀ n0 n1 n2 data, (with3 n0 n1 n2 data).port.ops.n0.toNat = n0.toNat ∧ (with3 n0 n1 n2 data).port.ops.n1.toNat = n1.toNat ∧
      (with3 n0 n1 n2 data).port.ops.n2.toNat = n2.toNat ∧ (with3 n0 n1 n2 data).port.ops.data = data) ∧
    (¬ FcInRange (0 : U32).toNat ∧ ¬ FcInRange (0x80 : U32).toNat ∧ FcInRange (1 : U32).toNat ∧
      FcInRange (0x7F : U32).toNat) ∧
    -- RBQ: width, count, addr, success
    ((0x10000 : U32).toNat > 0xFFFF ∧ (0 : U32).toNat < 1 ∧ (2001 : U32).toNat > 2000 ∧
      (0xF830 : U32).toNat + (2000 : U32).toNat > 0xFFFF ∧ (0xF82F : U32).toNat + (2000 : U32).toNat ≤ 0xFFFF) ∧
    -- RBS
    ((List.replicate 252 (0 : Byte)).length > 251 ∧ (List.replicate 251 (0 : Byte)).length ≤ 251) ∧
    -- WSBQ, WSBS
    ((2 : U32).toNat > 1 ∧ (1 : U32).toNat = true.toNat ∧ (0 : U32).toNat = false.toNat) ∧
    -- WMBQ: count, len, success
    ((0x7B1 : U32).toNat > 0x7B0 ∧ ¬ ((9 : U32).toNat ≤ 8 * [(0 : Byte)].length ∧ 8 * [(0 : Byte)].length < (9 : U32).toNat + 8) ∧
      (0x7B0 : U32).toNat ≤ 8 * (List.replicate 246 (0 : Byte)).length ∧
      8 * (List.replicate 246 (0 : Byte)).length < (0x7B0 : U32).toNat + 8) := by
  refine ⟨fun _ _ _ _ => ⟨rfl, rfl, rfl, rfl⟩, ?_, ?_, ?_, ?_, ?_⟩ <;>
    (try simp only [FcInRange, List.length_replicate]) <;> decide

theorem witness_RegisterConstructorsValidate :
    -- RRQ: addr, count, success (the operand fields and function codes are those of the witness before)
    ((0x100 : U32).toNat + (0 : U32).toNat > 0xFF ∧ (0 : U32).toNat + (126 : U32).toNat ≤ 0xFF ∧ (126 : U32).toNat > 125 ∧
      (0x82 : U32).toNat + (125 : U32).toNat ≤ 0xFF ∧ (125 : U32).toNat ≤ 125) ∧
    -- RRS
    ((List.replicate 251 (0 : Byte)).length % 2 = 1 ∧ (List.replicate 252 (0 : Byte)).length > 250 ∧
      (List.replicate 250 (0 : Byte)).length % 2 = 0 ∧ (List.replicate 250 (0 : Byte)).length ≤ 250) ∧
    -- WSRQ, WSRS
    ([(0 : Byte)].length ≠ 2 ∧ [(0 : Byte), 3].length = 2 ∧ (0xFFFF : U32).toNat ≤ 0xFFFF ∧ (0x10000 : U32).toNat > 0xFFFF) ∧
    -- WMRQ: count, len, success
    ((0 : U32).toNat < 1 ∧ (0x7C : U32).toNat > 0x7B ∧ [(0 : Byte)].length ≠ 2 * (1 : U32).toNat ∧
      (List.replicate 246 (0 : Byte)).length = 2 * (0x7B : U32).toNat) := by
  simp only [List.length_replicate]; decide

theorem witness_ExceptionAndRawConstructorsValidate :
    ((0x80 : U32).toNat ≤ 0x80 ∧ (0x100 : U32).toNat > 0xFF) ∧
    (0x80 < (0x81 : U32).toNat ∧ (0 : U32).toNat < 1 ∧ (0x100 : U32).toNat > 0xFF) ∧
    (0x80 < (0xFF : U32).toNat ∧ (0xFF : U32).toNat ≤ 0xFF ∧ 1 ≤ (0xFF : U32).toNat) ∧
    (with3 0 0 0 [0x03]).port.ops.data.length < 2 ∧ (with3 0 0 0 [0x83, 0x02]).port.ops.data = 0x83 :: 0x02 :: [] := by
  refine ⟨?_, ?_, ?_, by decide, rfl⟩ <;> simp

theorem witness_MarshalReturnsTheWireLayout :
    (holding (.rrq 3 0 2)).port.ops.pdu.variant ≠ .rbq ∧
    (holding (.wmbq 0x0F 0x13 10 [0xCD, 0x01])).port.ops.pdu = .wmbq 0x0F 0x13 10 [0xCD, 0x01] := ⟨by decide, rfl⟩

/-- Every variant has a PDU that its constructor yields. -/
theorem witness_MarshalThenUnmarshalRoundTrips :
    YieldsPdu .newRbq (with3 1 0xFFFE 1) (.rbq 1 0xFFFE 1) ∧ YieldsPdu .newRbs (with3 1 0 0 [0xCD]) (.rbs 1 [0xCD]) ∧
    YieldsPdu .newWsbq (with3 5 0xAC 1) (.wsbq 5 0xAC true) ∧ YieldsPdu .newWsbs (with3 5 0xAC 0) (.wsbs 5 0xAC false) ∧
    YieldsPdu .newWmbq (with3 0x0F 0x13 10 [0xCD, 0x01]) (.wmbq 0x0F 0x13 10 [0xCD, 0x01]) ∧
    YieldsPdu .newWmbs (with3 0x0F 0x13 10) (.wmbs 0x0F 0x13 10) ∧ YieldsPdu .newRrq (with3 3 0 125) (.rrq 3 0 125) ∧
    YieldsPdu .newRrs (with3 3 0 0 [0x00, 0x0A]) (.rrs 3 [0x00, 0x0A]) ∧
    YieldsPdu .newWsrq (with3 6 1 0 [0x00, 0x03]) (.wsrq 6 1 [0x00, 0x03]) ∧
    YieldsPdu .newWsrs (with3 6 1 0 [0x00, 0x03]) (.wsrs 6 1 [0x00, 0x03]) ∧
    YieldsPdu .newWmrq (with3 0x10 1 1 [0x00, 0x0A]) (.wmrq 0x10 1 1 [0x00, 0x0A]) ∧
    YieldsPdu .newWmrs (with3 0x10 1 10) (.wmrs 0x10 1 10) ∧ YieldsPdu .newExc (with3 0x81 1 0) (.exc 0x81 1) ∧
    YieldsPdu .newRaw (with3 0 0 0 [0x83, 0x02]) (.raw 0x83 0x02 []) :=
  ⟨rfl, rfl, rfl, rfl, rfl, rfl, rfl, rfl, rfl, rfl, rfl, rfl, rfl, rfl⟩

theorem witness_BitDecodersCheckLengthThenConstruct :
    -- length; two words with their constructor's operands
    (with3 0 0 0 [1, 0, 0x13, 0]).port.ops.data.length ≠ 5 ∧
    ((with3 0 0 0 [1, 0xFF, 0xFE, 0, 1]).port.ops.data = [1, 0xFF, 0xFE, 0, 1] ∧
      (with3 1 0xFFFE 1).port.ops.n0.toNat = (1 : Byte).toNat ∧
      (with3 1 0xFFFE 1).port.ops.n1.toNat = (0xFF : Byte).toNat * 256 + (0xFE : Byte).toNat ∧
      (with3 1 0xFFFE 1).port.ops.n2.toNat = (0 : Byte).toNat * 256 + (1 : Byte).toNat) ∧
    -- byte count
    ((with3 0 0 0 [1]).port.ops.data.length < 2 ∧ ([0xCD] : Bytes).length ≠ (2 : Byte).toNat ∧
      ([0xCD] : Bytes).length = (1 : Byte).toNat ∧ (with3 1 0 0 [0xCD]).port.ops.data = [0xCD]) ∧
    -- value word
    (¬ ((0x01 : Byte) = 0x00 ∧ ((0x00 : Byte) = 0xFF ∨ (0x00 : Byte) = 0x00)) ∧
      ¬ ((0x00 : Byte) = 0x00 ∧ ((0x01 : Byte) = 0xFF ∨ (0x01 : Byte) = 0x00)) ∧
      (with3 5 0xAC 1).port.ops.n2 = 1 ∧ (with3 5 0xAC 0).port.ops.n2 = 0 ∧
      (with3 5 0xAC 1).port.ops.n1.toNat = (0x00 : Byte).toNat * 256 + (0xAC : Byte).toNat) ∧
    -- six bytes
    (with3 0 0 0 [0x0F, 0, 0x13, 0, 10]).port.ops.data.length < 6 := by decide

theorem witness_RegisterDecodersCheckLengthThenConstruct :
    ((with3 0 0 0 [3, 0, 0, 0]).port.ops.data.length ≠ 5 ∧ (with3 0 0 0 [3]).port.ops.data.length < 2 ∧
      (with3 0 0 0 [0x10, 0, 1, 0, 1]).port.ops.data.length < 6 ∧ (with3 0 0 0 [0x83]).port.ops.data.length ≠ 2) ∧
    ((with3 0 0 0 [3, 0, 0, 0, 0x7D]).port.ops.data = [3, 0, 0, 0, 0x7D] ∧
      (with3 3 0 125).port.ops.n2.toNat = (0 : Byte).toNat * 256 + (0x7D : Byte).toNat) ∧
    (([0x00, 0x0A] : Bytes).length = (2 : Byte).toNat ∧ ([0x00, 0x0A] : Bytes).length ≠ (4 : Byte).toNat) ∧
    ((with3 6 1 0 [0x00, 0x03]).port.ops.data = [0x00, 0x03] ∧
      (with3 6 1 0 [0x00, 0x03]).port.ops.n1.toNat = (0 : Byte).toNat * 256 + (1 : Byte).toNat) ∧
    ((with3 0 0 0 [0x83, 0x02]).port.ops.data = [0x83, 0x02] ∧ (with3 0x83 2 0).port.ops.n0.toNat = (0x83 : Byte).toNat ∧
      (with3 0x83 2 0).port.ops.n1.toNat = (0x02 : Byte).toNat) := by decide

theorem witness_ReinterpretMarshalsThenUnmarshals :
    let s := holding (.rbq 1 19 19)
    let u := with3 0 0 0 [0x01, 0x00, 0x13, 0x00, 0x13]
    u.port.ops.data = s.port.ops.pdu.marshal ∧
    exec (Instr.unmarshalOf .raw) u = .next (u.answer (Result.okPdu (.raw 0x01 0x00 [0x13, 0x00, 0x13]))) ∧
    s.port.ops.pdu.valid = true := ⟨by decide, rfl, by decide⟩

theorem witness_DecodeResponseAppliesTheExceptionConvention :
    let s := given { pdu := .rrq 3 0 1, pdu2 := .raw 0x03 0x02 [0x00, 0x0A] }
    let x := given { pdu := .rrq 3 0 1, pdu2 := .raw 0x83 0x02 [] }
    (s.port.ops.pdu2.marshal = 0x03 :: [0x02, 0x00, 0x0A] ∧ s.port.ops.pdu.variant = .rrq ∧
      s.port.ops.pdu.functionCode = 3 ∧ (PDU.rrs 3 [0x00, 0x0A]).variant = .rrs ∧ (PDU.rrs 3 [0x00, 0x0A]).valid = true ∧
      (PDU.rrs 3 [0x00, 0x0A]).marshal = 0x03 :: [0x02, 0x00, 0x0A]) ∧
    (x.port.ops.pdu2.marshal = 0x83 :: [0x02] ∧ (0x83 : Byte) = 3 ||| 0x80 ∧ (PDU.exc 0x83 2).valid = true ∧
      (PDU.exc 0x83 2).marshal = 0x83 :: [0x02]) ∧
    exec (Instr.unmarshalOf .rrs) (with3 0 0 0 [0x03, 0x02, 0x00, 0x0A]) =
      .next ((with3 0 0 0 [0x03, 0x02, 0x00, 0x0A]).answer (Result.okPdu (.rrs 3 [0x00, 0x0A]))) ∧
    (holding (.rrs 3 [])).port.ops.pdu.variant ∈ [Variant.rbs, .wsbs, .wmbs, .rrs, .wsrs, .wmrs, .exc, .raw] := by
  refine ⟨by decide, by decide, rfl, by decide⟩

theorem witness_BitPackingIsLsbFirst :
    let s := given { data := [0xCD], bools := [true, false, true, true, false, false, true, true, true, false] }
    7 < 8 * s.port.ops.data.length ∧ 1 < [(0xCD : Byte), 0x01].length ∧
    (with3 0 0 0 [0xCD, 0x01]).port.ops.data = [0xCD, 0x01] := by decide

theorem witness_RegisterPayloadsDecodeToWordsAndFloats :
    (with3 0 0 0 [0x3F]).port.ops.data.length % 2 ≠ 0 ∧ (with3 0 0 0 [0x3F, 0x80]).port.ops.data.length % 4 ≠ 0 ∧
    (with3 0 0 0 [0x5C, 0x29, 0x41, 0x48]).port.ops.data.length % 4 = 0 ∧
    (with3 0 0 0 [0x5C, 0x29, 0x41, 0x48]).port.ops.data[2 * 1]? = some 0x41 ∧
    (with3 0 0 0 [0x5C, 0x29, 0x41, 0x48]).port.ops.data[4 * 0 + 3]? = some 0x48 := by decide

theorem witness_CsrAccessReadsStatusAndWritesTimeouts :
    MapsOk (awaiting (.rdHdr []) []) ∧ (8 : Byte).toNat > 7 ∧ (0xFF : Byte).toNat > 7 ∧ (2 : Byte).toNat > 1 :=
  ⟨⟨by decide, by decide, by decide⟩, by decide, by decide, by decide⟩

theorem witness_CodecCommandsWriteOnlyTheResultPort : answersOnly .crcRead = true ∧ answersOnly .decodeResponse = true := by
  decide

/-! Steps that change what `RegistersChangeOnlyInTheirOwnSteps` and `StreamsGrowAtTheEndAndAreReadAtTheHead` are about. -/

theorem witness_RegistersChange_crc :
    ∃ t, step (next [.issue 0 0x02 { data := [0x00] } 0]) = .next t ∧ decide (t.crc ≠ 0xFFFF) = true :=
  exists_of_nexts (by decide +kernel)

theorem witness_RegistersChange_fbBuf :
    ∃ t, step (next [.issue 0 0x12 { words := [0x0013] } 0]) = .next t ∧ decide (t.fbBuf ≠ []) = true :=
  exists_of_nexts (by decide)

theorem witness_RegistersChange_csr0 :
    ∃ t, step (next [.issue 0 0x081 { n0 := 100 } 0]) = .next t ∧ decide (t.cfgRtuReadTimeoutMs ≠ 300) = true :=
  exists_of_nexts (by decide)

theorem witness_RegistersChange_csr1 :
    ∃ t, step (next [.issue 0 0x181 { n0 := 50 } 0]) = .next t ∧ decide (t.cfgTcpReqTimeoutMs ≠ 500) = true :=
  exists_of_nexts (by decide)

theorem witness_RegistersChange_tcpTid :
    ∃ t, step { next [.waiterRun 0] with waiters := [{ waiting with phase := .alloc }] } = .next t ∧
      decide (t.tcpTid ≠ 0) = true := exists_of_nexts (by decide)

theorem witness_RegistersChange_now : ∃ t, step (next [.tick]) = .next t ∧ decide (t.now ≠ 0) = true :=
  exists_of_nexts (by decide)

theorem witness_StreamsGrow :
    (∃ t, step { reading .send 0 [] [] with script := [.rtuSend 2 false], rtuTx := [0x11, 0x03] } = .next t ∧
      decide (t.serOut ≠ []) = true) ∧
    (∃ t, step { reading .hdr 2 [] [0x11] with script := [.rtuRead] } = .next t ∧ decide (t.serIn = []) = true) ∧
    (∃ t, step (next [.tcpArrive 0x01]) = .next t ∧ decide (t.tcpIn = [0x01]) = true) ∧
    nextEvent (next [.tcpArrive 0x01]) ≠ .reset :=
  ⟨exists_of_nexts (by decide), exists_of_nexts (by decide), exists_of_nexts (by decide), by decide⟩

theorem witness_ClosedTransportsStayClosed :
    let s := { next [.tick] with
      tcpClosed := true, tcpOpen := false, twState := .stop, trState := .rdStop, tcpFatal := .unknownTid, rtuPhase := .closed,
      serOpen := false }
    nextEvent s ≠ .reset ∧ s.tcpClosed = true ∧ s.rtuPhase = .closed ∧ s.tcpFatal ≠ .none ∧
    ∃ t, step s = .next t ∧ decide (t.now = 1) = true :=
  ⟨by decide, rfl, rfl, by decide, exists_of_nexts (by decide)⟩

theorem witness_TransportsDoNotInterfere :
    let s := { reading .hdr 2 [] [0x11] with script := [.rtuRead] }
    let u := { awaiting (.rdHdr []) [0x00] with script := [.trRead] }
    (serialEvent (nextEvent s) = true ∧ ∃ t, step s = .next t ∧ decide (t.serIn = []) = true) ∧
    (streamEvent (nextEvent u) = true ∧ ∃ t, step u = .next t ∧ decide (t.tcpIn = []) = true) ∧
    serialWord 0x00001160 = true ∧ streamWord 0x00000071 = true ∧
    -- two states that share the serial state only, and two that share the stream state only
    (let s' := { s with crc := 0, tcpTid := 7 }
     Healthy s ∧ Healthy s' ∧ serialPart s = serialPart s' ∧ s.now = s'.now ∧ s.port = s'.port ∧ s.results = s'.results ∧
     (∃ t, runEvent .rtuRead s = .next t ∧ decide (t.serIn = []) = true) ∧
     ∃ t, runEvent .rtuRead s' = .next t ∧ decide (t.serIn = []) = true) ∧
    (let u' := { u with crc := 0, rtuAddr := 7 }
     Healthy u ∧ Healthy u' ∧ streamPart u = streamPart u' ∧ u.now = u'.now ∧ u.port = u'.port ∧ u.results = u'.results ∧
     (∃ t, runEvent .trRead u = .next t ∧ decide (t.tcpIn = []) = true) ∧
     ∃ t, runEvent .trRead u' = .next t ∧ decide (t.tcpIn = []) = true) ∧
    -- the commands
    (∃ t, exec .rtuClose State.reset = .next t ∧ decide (t.rtuPhase = .closed) = true) ∧
    ∃ t, exec .tcpClose u = .next t ∧ decide (t.tcpMap = []) = true :=
  ⟨⟨rfl, exists_of_nexts (by decide)⟩, ⟨rfl, exists_of_nexts (by decide)⟩, rfl, rfl,
    ⟨rfl, rfl, rfl, rfl, rfl, rfl, exists_of_nexts (by decide), exists_of_nexts (by decide)⟩,
    ⟨rfl, rfl, rfl, rfl, rfl, rfl, exists_of_nexts (by decide), exists_of_nexts (by decide)⟩,
    exists_of_nexts (by decide), exists_of_nexts (by decide)⟩

theorem witness_ConsumeTickAndArrivalsDoTheirEffect :
    let s := { State.reset with results := [(3, Result.done), (4, Result.done)] }
    Healthy s ∧ s.results.get 3 ≠ none ∧ (4 : Nat) ≠ 3 ∧ hostWaiting 3 s = false ∧ s.tcpOpen = true :=
  ⟨rfl, by decide, by decide, rfl, rfl⟩

theorem witness_FaultsStopEveryStepButReset :
    let s := { next [.tick] with faults := { tidReuse := true } }
    (¬ Healthy s ∧ nextEvent s ≠ .reset) ∧ Healthy State.reset ∧ nextEvent (next [.reset]) = .reset :=
  ⟨⟨by unfold Healthy; decide, by decide⟩, rfl, rfl⟩

theorem witness_ResponseClassesSetTheFrameLength : (reading .hdr 2 [] []).rtuHost = some 0 := rfl

theorem witness_RtuWriteRequestStartsFailsOrFaults :
    State.reset.rtuPhase = .idle ∧ ({ State.reset with rtuPhase := .closed } : State).rtuPhase = .closed ∧
    (reading .hdr 2 [] []).rtuPhase ≠ .idle ∧ (reading .hdr 2 [] []).rtuPhase ≠ .closed := by decide

theorem witness_RtuCloseDrawsItsResult :
    State.reset.rtuPhase = .idle ∧ State.reset.port.draw = 0 ∧
    ({ State.reset with rtuPhase := .closed, port := { draw := 2 } } : State).port.draw = 2 ∧
    (reading .body 5 [] []).rtuPhase ≠ .idle ∧ (reading .body 5 [] []).rtuPhase ≠ .closed := by decide

theorem witness_RtuSendStepFollowsTheWrite :
    let s := { reading .send 0 [] [] with rtuTx := List.replicate 8 0 }
    Healthy s ∧ s.rtuPhase = .send ∧ s.rtuHost = some 0 ∧ s.serOpen = true ∧ 7 < s.rtuTx.length ∧ s.rtuTx.length ≤ 8 ∧
    s.rtuAddr ≠ 0 ∧ ({ s with rtuAddr := 0 } : State).rtuAddr = 0 ∧ ({ s with serOpen := false } : State).serOpen = false :=
  ⟨rfl, rfl, rfl, rfl, by decide, by decide, by decide, rfl, rfl⟩

theorem witness_RtuReadsUntilErrorDeadlineOrMismatch :
    let s := { reading .hdr 2 [0x12] [0x03] with now := 299 }
    Healthy s ∧ s.rtuPhase.reading = true ∧ s.rtuHost = some 0 ∧ s.serIn ≠ [] ∧ s.serIn = 0x03 :: [] ∧
    s.now < s.rtuDeadline ∧ s.rtuNeed = 2 ∧ s.rtuRx = [0x12] ∧ (0x12 : Byte) ≠ s.rtuAddr ∧
    ({ s with now := 300 } : State).rtuDeadline ≤ ({ s with now := 300 } : State).now ∧
    (reading .hdr 2 [] [0x12]).rtuRx.length + 1 ≠ (reading .hdr 2 [] [0x12]).rtuNeed :=
  ⟨rfl, rfl, rfl, by decide, rfl, by decide, rfl, rfl, by decide, by decide, by decide⟩

/-- The frame `11 83 02 C1 34` of section 2.7, its last byte queued, good and corrupted. -/
theorem witness_RtuFrameCompletesWithCrcCheck :
    let s := reading .body 5 ([0x11, 0x83, 0x02] ++ [0xC1]) [0x34]
    Healthy s ∧ s.rtuPhase = .body ∧ s.rtuHost = some 0 ∧ s.now < s.rtuDeadline ∧
    s.rtuRx = [0x11, 0x83, 0x02] ++ [0xC1] ∧ s.serIn = 0x34 :: [] ∧ s.rtuNeed = ([0x11, 0x83, 0x02] : Bytes).length + 2 ∧
    (BitVec.ofNat 16 ((0x34 : Byte).toNat * 256 + (0xC1 : Byte).toNat) : U16) = crc16 [0x11, 0x83, 0x02] ∧
    (BitVec.ofNat 16 ((0x35 : Byte).toNat * 256 + (0xC1 : Byte).toNat) : U16) ≠ crc16 [0x11, 0x83, 0x02] :=
  ⟨rfl, rfl, rfl, by decide, rfl, rfl, rfl, by decide +kernel, by decide +kernel⟩

/-- An exception response, a read response without and with payload, and a write response. -/
theorem witness_RtuReceivesEveryWellSizedResponse :
    (WellSizedResponse [0x83, 0x02] ∧ WellSizedResponse [0x01, 0x00] ∧ WellSizedResponse [0x01, 0x01, 0x05] ∧
      WellSizedResponse [0x0F, 0x00, 0x13, 0x00, 0x0A]) ∧
    let s := { reading .hdr 2 [] (rtuFrame 0x11 [0x83, 0x02] ++ [0xAA]) with
      script := List.replicate ([(0x83 : Byte), 0x02].length + 3) .rtuRead ++ [] }
    Healthy s ∧ s.rtuPhase = .hdr ∧ s.rtuNeed = 2 ∧ s.rtuRx = [] ∧ s.rtuHost = some 0 ∧ s.now < s.rtuDeadline ∧
    s.serIn = rtuFrame s.rtuAddr [0x83, 0x02] ++ [0xAA] := by
  refine ⟨⟨⟨_, _, _, rfl, ?_⟩, ⟨_, _, _, rfl, ?_⟩, ⟨_, _, _, rfl, ?_⟩, ⟨_, _, _, rfl, ?_⟩⟩, rfl, rfl, rfl, rfl, rfl, by decide,
    rfl⟩ <;> decide

theorem witness_WaiterStepsFollowTheirPhases :
    let s (w : Waiter) := { State.reset with waiters := [w] }
    Healthy (s waiting) ∧ (s waiting).waiters[0]? = some waiting ∧ (s waiting).tcpClosed = false ∧
    ({ s waiting with tcpClosed := true } : State).tcpClosed = true ∧
    ({ waiting with phase := .check } : Waiter).phase = .check ∧ ({ waiting with phase := .alloc } : Waiter).phase = .alloc ∧
    ({ waiting with phase := .reg } : Waiter).phase = .reg ∧ (s waiting).tcpMap.get waiting.tid.toNat = none ∧
    (awaiting (.rdHdr []) []).tcpMap.get waiting.tid.toNat ≠ none ∧
    waiting.phase = .wait ∧ ({ waiting with signal := some Result.done } : Waiter).signal = some Result.done :=
  ⟨rfl, rfl, rfl, rfl, rfl, rfl, rfl, rfl, by decide, rfl, rfl⟩

theorem witness_WaiterTimesOutAndRemovesItsRecord :
    let s := { awaiting (.rdHdr []) [] with now := 500 }
    Healthy s ∧ s.waiters[0]? = some waiting ∧ waiting.phase = .wait ∧ waiting.t0 + waiting.tmo.toNat ≤ s.now ∧
    s.tcpMap.get waiting.tid.toNat = some { unit := 1, req := .rrq 3 0 2, waiter := 0 } ∧
    (∀ record, ({ s with tcpMap := [] } : State).tcpMap.get waiting.tid.toNat = some record → record.waiter ≠ 0) ∧
    ({ s with now := 499 } : State).now < waiting.t0 + waiting.tmo.toNat ∧
    ({ waiting with signal := some Result.done } : Waiter).signal.isSome = true :=
  ⟨rfl, rfl, rfl, by decide, rfl, by simp, by decide, rfl⟩

/-- A PDU of 0xFFFF bytes, and one that a frame can carry, at the head of the queue. -/
theorem witness_WriterWritesTheHeadOfTheQueue :
    let s (p : PDU) := { State.reset with tcpQueue := [{ tid := 0, unit := 1, req := p }] }
    Healthy (s (.rrq 3 0 2)) ∧ (s (.rrq 3 0 2)).twState = .run ∧
    (s (.rrq 3 0 2)).tcpQueue = { tid := 0, unit := 1, req := .rrq 3 0 2 } :: [] ∧
    0xFFFE < (PDU.raw 0 0 (List.replicate 0xFFFD 0)).marshal.length ∧
    (PDU.raw 0 0 (List.replicate 0xFFFC 0)).marshal.length ≤ 0xFFFE ∧
    (s (.rrq 3 0 2)).tcpOpen = true ∧ ({ s (.rrq 3 0 2) with tcpOpen := false } : State).tcpOpen = false ∧
    11 < (mbapFrame 0 1 (PDU.rrq 3 0 2).marshal).length ∧ (mbapFrame 0 1 (PDU.rrq 3 0 2).marshal).length ≤ 12 := by
  refine ⟨rfl, rfl, rfl, ?_, ?_, rfl, rfl, by decide, by decide⟩ <;>
    simp only [PDU.marshal, List.length_cons, List.length_replicate] <;> omega

/-- A stream request in flight, a serial response being read, and a request of a third host that is not registered yet: a
state that meets every part of the invariant and steps. -/
def busy : State :=
  { awaiting (.rdHdr [0x00, 0x00]) [0x00] with
    script := [.trRead]
    rtuPhase := .body
    rtuHost := some 1
    rtuAddr := 0x11
    rtuRx := [0x11, 0x83]
    rtuNeed := 5
    rtuDeadline := 300
    waiters := [waiting, { waiting with host := 2, phase := .check }]
    results := [(5, Result.okPdu (.rbs 1 [0xCD]))] }

theorem witness_StepKeepsMapsCanonical : MapsOk busy := ⟨by decide, by decide, by decide⟩

theorem witness_StepKeepsPendingEntriesUnsignalled : PendingOk busy := by
  refine ⟨fun e he => ?_, by decide⟩
  obtain rfl : e = (0, { unit := 1, req := .rrq 3 0 2, waiter := 0 }) := by simpa [busy, awaiting] using he
  exact ⟨waiting, rfl, rfl, rfl, rfl, rfl, rfl⟩

theorem witness_StepKeepsSerialRegistersConsistent : SerialOk busy :=
  ⟨by decide, by decide, by decide, by decide, by decide, by decide⟩

theorem witness_StepKeepsStreamStatusConsistent : StreamOk busy :=
  ⟨rfl, by decide, by decide, by decide, show 2 < 7 by decide⟩

theorem witness_StepKeepsEveryPduValid : PdusOk busy := by
  refine ⟨by decide, ?_, by decide, by decide, by decide, ?_⟩
  on_goal 2 => intro w hw r hr; simp [busy, awaiting, waiting] at hw; rcases hw with rfl | rfl <;> cases hr
  intro e he p hp
  obtain rfl : e = (5, Result.okPdu (.rbs 1 [0xCD])) := by simpa [busy] using he
  cases hp; decide

theorem witness_StepKeepsResultPortsSingleUse : PortsOk busy := by
  refine ⟨?_, ?_, by decide⟩
  · intro h hh
    have : h ≠ 5 := by rintro rfl; revert hh; decide
    simp [busy, Assoc.get, this.symm]
  · intro c d v w hc hd hv hw heq
    match c, d with
    | 0, 0 | 1, 1 => rfl
    | 0, 1 => cases hc; cases hd; exact absurd heq (by decide)
    | 1, 0 => cases hc; cases hd; exact absurd heq (by decide)
    | _ + 2, _ => simp [busy] at hc
    | 0, _ + 2 => simp [busy] at hd
    | 1, _ + 2 => simp [busy] at hd

/-- The step of `busy` that all six invariants are about. -/
theorem witness_busy_steps : ∃ t, step busy = .next t ∧ decide (t.trState = .rdHdr [0x00, 0x00, 0x00]) = true :=
  exists_of_nexts (by decide)

theorem witness_CompletionIsOneShotAndCloseSweepsAll :
    let s := awaiting (.rdHdr []) []
    s.tcpMap.get 1 = none ∧ s.tcpMap.get 0 = some { unit := 1, req := .rrq 3 0 2, waiter := 0 } ∧
    s.waiters[0]? = some waiting ∧ (∃ e ∈ s.tcpMap, e.2.waiter = 0) ∧
    (busy.waiters[1]? = some { waiting with host := 2, phase := .check } ∧ ∀ e ∈ busy.tcpMap, e.2.waiter ≠ 1) :=
  ⟨rfl, rfl, rfl, by decide, rfl, by decide⟩

theorem witness_ReaderChecksTheHeaderInOrder :
    let s (buf : Bytes) (b : Byte) := awaiting (.rdHdr buf) [b]
    -- the end of a connection whose input is empty
    (Healthy (awaiting (.rdHdr []) []) ∧ (awaiting (.rdHdr []) []).tcpOpen = true ∧
      (awaiting (.rdHdr []) []).trState ≠ .rdStop) ∧
    Healthy (s [] 0) ∧ (s [] 0).tcpOpen = true ∧ (s [] 0).tcpIn = 0 :: [] ∧ ([0, 0, 0, 0, 0] : Bytes).length < 6 ∧
    (s [] 0).trState ≠ .rdStop ∧ (s [0, 0, 0, 0, 0, 3] 1).trState = .rdHdr [0, 0, 0, 0, 0, 3] ∧
    -- protocol id, unknown id, known id, wrong and right unit, and the three kinds of length
    ¬ ((0x00 : Byte) = 0 ∧ (0x01 : Byte) = 0) ∧ (s [] 0).tcpMap.get 5 = none ∧
    (s [] 0).tcpMap.get 0 = some { unit := 1, req := .rrq 3 0 2, waiter := 0 } ∧ (9 : Byte) ≠ 1 ∧
    (0 : Byte).toNat * 256 + (0 : Byte).toNat = 0 ∧ (0 : Byte).toNat * 256 + (1 : Byte).toNat = 1 ∧
    2 ≤ (0xFF : Byte).toNat * 256 + (0xFF : Byte).toNat :=
  ⟨⟨rfl, rfl, by decide⟩, rfl, rfl, rfl, by decide, by decide, rfl, by decide, rfl, rfl, by decide, rfl, rfl, by decide⟩

theorem witness_ReaderCompletesTheBody :
    let s := awaiting (.rdBody 0 1 2 [0x83]) [0x02]
    Healthy s ∧ s.tcpOpen = true ∧ s.tcpIn = 0x02 :: [] ∧ s.trState = .rdBody 0 1 2 [0x83] ∧
    ([0x83] : Bytes).length + 1 = 2 ∧ ([0x83] : Bytes) ++ [0x02] = 0x83 :: 0x02 :: [] ∧ ([] : Bytes).length + 1 < 2 ∧
    ([] : Bytes).length + 1 = 1 :=
  ⟨rfl, rfl, rfl, rfl, rfl, rfl, by decide, rfl⟩

theorem witness_ReaderRoutesEachResponseByItsId :
    let s := { awaiting (.rdHdr []) (mbapFrame 0 1 [0x83, 0x02] ++ [0xAA]) with
      script := List.replicate ([(0x83 : Byte), 0x02].length + 7) .trRead ++ [] }
    Healthy s ∧ s.tcpOpen = true ∧ s.trState = .rdHdr [] ∧ ([0x83, 0x02] : Bytes).length ≤ 0xFFFE ∧
    s.tcpMap.get (0 : U16).toNat = some { unit := 1, req := .rrq 3 0 2, waiter := 0 } ∧
    s.tcpIn = mbapFrame 0 1 [0x83, 0x02] ++ [0xAA] :=
  ⟨rfl, rfl, rfl, by decide, rfl, rfl⟩

theorem witness_TcpCloseSweepsAndDrawsItsResult :
    State.reset.tcpClosed = false ∧ ({ State.reset with tcpClosed := true, port := { draw := 1 } } : State).tcpClosed = true ∧
    ({ State.reset with tcpClosed := true, port := { draw := 1 } } : State).port.draw = 1 := by decide

end Sys2Proof.Tests
end

section
/-! PROOF. Every PDU value the block holds or returns is valid (R14, R19): one lemma for each operation of the machine, then one
for each agent, command and event. -/

namespace Sys2Proof.Machine

variable {s t : State}

/-! ### Results, faults and waiter slots -/

/-- A result written keeps every PDU valid when the result carries a valid one. -/
theorem PdusOk.reply (hs : PdusOk s) (h : Nat) {r : Result} (hr : resultValid r) : PdusOk (s.reply h r) :=
  { hs with
    results := fun e he => by
      rcases Assoc.mem_put _ _ _ _ he with rfl | he
      · exact hr
      · exact hs.results e he }

theorem PdusOk.raise (hs : PdusOk s) (f : Fault) : PdusOk (s.raise f) := { hs with }

/-- The PDU values of one waiter slot are valid: its request's and its signal's. -/
def WaiterPdusOk (w : Waiter) : Prop := w.req.valid = true ∧ ∀ r, w.signal = some r → resultValid r

/-- The two clauses of `PdusOk` about waiters, slot by slot. -/
theorem PdusOk.waiter (hs : PdusOk s) {w : Waiter} (hw : w ∈ s.waiters) : WaiterPdusOk w :=
  ⟨hs.waiters w hw, hs.signals w hw⟩

/-- Waiter slots replaced by slots of valid PDU values. -/
theorem PdusOk.setWaiters (hs : PdusOk s) {ws : List Waiter} (hws : ∀ w ∈ ws, WaiterPdusOk w) :
    PdusOk { s with waiters := ws } :=
  { hs with waiters := fun w hw => (hws w hw).1, signals := fun w hw => (hws w hw).2 }

/-- A slot of a modified list is an old slot or the modification of one. -/
theorem mem_modify_cases {ws : List Waiter} {c : Nat} {f : Waiter → Waiter} {w : Waiter} (h : w ∈ ws.modify c f) :
    ∃ v ∈ ws, w = v ∨ w = f v := by
  obtain ⟨d, hd⟩ := List.mem_iff_getElem?.1 h
  rw [List.getElem?_modify] at hd
  obtain ⟨v, hv, rfl⟩ := Option.map_eq_some_iff.1 hd
  refine ⟨v, List.mem_of_getElem? hv, ?_⟩
  split
  · exact .inr rfl
  · exact .inl rfl

/-- One waiter slot changed to a slot of valid PDU values. -/
theorem PdusOk.updateWaiter (hs : PdusOk s) (c : Nat) {f : Waiter → Waiter} (hf : ∀ w, WaiterPdusOk w → WaiterPdusOk (f w)) :
    PdusOk (s.updateWaiter c f) :=
  hs.setWaiters fun w hw => by
    obtain ⟨v, hv, rfl | rfl⟩ := mem_modify_cases hw
    · exact hs.waiter hv
    · exact hf v (hs.waiter hv)

theorem WaiterPdusOk.signalled {w : Waiter} (hw : WaiterPdusOk w) {r : Result} (hr : resultValid r) :
    WaiterPdusOk (w.signalled r) :=
  ⟨hw.1, fun _ h => Option.some.inj h ▸ hr⟩

theorem WaiterPdusOk.inPhase {w : Waiter} (hw : WaiterPdusOk w) (p : WaitPhase) : WaiterPdusOk (w.inPhase p) := hw

/-! ### The serial framer -/

theorem PdusOk.rtuFinish (hs : PdusOk s) {r : Result} (hr : resultValid r) : PdusOk (rtuFinish r s) := by
  unfold Machine.rtuFinish
  split
  · exact { hs.reply _ hr with }
  · exact { hs with }

theorem PdusOk.awaitResponse (hs : PdusOk s) (p : RtuPhase) (need : Nat) : PdusOk (awaitResponse p need s) := { hs with }

/-- A result without a PDU value, `pdu = none` of a broadcast included, carries no invalid one. -/
theorem resultValid_of_join_none {r : Result} (h : r.pdu.join = none) : resultValid r := fun p hp => by simp [hp] at h

theorem PdusOk.rtuSend (hs : PdusOk s) (k : Nat) (ioerr : Bool) : PdusOk (rtuSend k ioerr s) := by
  obtain ⟨out, r, hr, heq⟩ | ⟨out, -, heq⟩ := rtuSend_cases k ioerr s <;> rw [heq]
  · have hwritten : PdusOk { s with serOut := s.serOut ++ out } := { hs with }
    exact hwritten.rtuFinish (resultValid_of_join_none hr)
  · exact { hs with }

theorem ReadEffect.pdusOk (h : ReadEffect s t) (hs : PdusOk s) : PdusOk t := by
  cases h with
  | more | short => exact hs
  | finish r valid => exact hs.rtuFinish valid
  | length | fixed => exact hs.awaitResponse _ _
  | sized => exact { hs with }

theorem PdusOk.rtuRead (hs : PdusOk s) (h : rtuRead s = .next t) : PdusOk t := by
  match hin : s.serIn with
  | [] =>
    simp only [Machine.rtuRead, hin] at h
    cases h
    exact hs
  | b :: rest => exact (rtuRead_effect hin h).pdusOk { hs with }

/-! ### The stream transport -/

theorem PdusOk.complete (hs : PdusOk s) (tid : Nat) {r : Result} (hr : resultValid r) : PdusOk (complete tid r s) := by
  unfold Machine.complete
  split
  · have hdel : PdusOk { s with tcpMap := s.tcpMap.del tid } :=
      { hs with pending := fun e he => hs.pending e ((Assoc.mem_del ..).1 he).1 }
    exact hdel.updateWaiter _ fun w hw => hw.signalled hr
  · exact hs

theorem PdusOk.completeAll (hs : PdusOk s) (entries : Assoc Pending) {r : Result} (hr : resultValid r) :
    PdusOk (completeAll entries r s) := by
  induction entries generalizing s with
  | nil => exact hs
  | cons e rest ih => exact ih (hs.complete e.1 hr)

theorem PdusOk.closeSweep (hs : PdusOk s) : PdusOk (closeSweep s) := by
  have hstopped : PdusOk { s with tcpClosed := true, tcpOpen := false, twState := .stop, trState := .rdStop } := { hs with }
  exact { hstopped.completeAll s.tcpMap (closedError_valid s.tcpFatal) with queue := nofun }

theorem PdusOk.fatal (hs : PdusOk s) (cause : FatalCause) : PdusOk (fatal cause s) := PdusOk.closeSweep { hs with }

theorem PdusOk.writerStep (hs : PdusOk s) (k : Nat) (ioerr : Bool) : PdusOk (writerStep k ioerr s) := by
  match hq : s.tcpQueue with
  | [] => simpa only [Machine.writerStep, hq] using hs
  | q :: rest =>
    have htail : PdusOk { s with tcpQueue := rest } :=
      { hs with queue := fun q' hq' => hs.queue q' (hq ▸ List.mem_cons_of_mem q hq') }
    have hwritten (out : Bytes) : PdusOk { s with tcpQueue := rest, tcpOut := s.tcpOut ++ out } := { htail with }
    obtain heq | ⟨out, heq | ⟨r, hr, heq⟩⟩ := writerStep_cases k ioerr hq <;> rw [heq]
    · exact htail.raise _
    · exact hwritten out
    · exact (hwritten out).complete _ (resultValid_of_none hr)

theorem ByteEffect.pdusOk (h : ByteEffect s t) (hs : PdusOk s) : PdusOk t := by
  cases h with
  | fatal cause => exact hs.fatal cause
  | complete tid r valid => exact { hs.complete tid valid with }
  | go => exact { hs with }

/-- A body that is handed to its request is a RawPDU, hence valid, or an error (R416). -/
theorem bodyResult_valid (need : Nat) (buf : Bytes) : resultValid (bodyResult need buf) := by
  unfold bodyResult
  split
  · exact resultValid_of_none rfl
  · split
    · rename_i p hp
      intro q hq
      cases hq
      exact (newRaw_valid hp).2
    · exact resultValid_of_none rfl

/-- The reader step, whatever its buffer holds. -/
theorem PdusOk.readerByte (hs : PdusOk s) (b : Byte) : PdusOk (readerByte b s) := by
  unfold Machine.readerByte
  split
  · split
    · exact { hs with }
    · unfold readerHeader
      split
      · exact (readerFields_effect ..).pdusOk hs
      · exact { hs with }
  · unfold readerBody
    split
    · exact { hs with }
    · exact { hs.complete _ (bodyResult_valid _ _) with }
  · exact hs

theorem PdusOk.readerStep (hs : PdusOk s) : PdusOk (readerStep s) := by
  unfold Machine.readerStep
  split
  next b rest _ =>
    have htaken : PdusOk { s with tcpIn := rest } := { hs with }
    exact htaken.readerByte b
  next => exact hs

theorem PdusOk.waiterEnd (hs : PdusOk s) (c : Nat) (w : Waiter) {r : Result} (hr : resultValid r) :
    PdusOk (waiterEnd c w r s) :=
  (hs.reply w.host hr).updateWaiter c fun _ hv => hv.inPhase .done

/-- Registration copies a waiter's request into the pending map and the writer queue (R405). -/
theorem PdusOk.register (hs : PdusOk s) {w : Waiter} (hw : w.req.valid = true) (c : Nat) :
    PdusOk
      { s with
        tcpMap := s.tcpMap.put w.tid.toNat { unit := w.unit, req := w.req, waiter := c }
        tcpQueue := s.tcpQueue ++ [{ tid := w.tid, unit := w.unit, req := w.req }] } :=
  { hs with
    pending := fun e he => by
      rcases Assoc.mem_put _ _ _ _ he with rfl | he
      · exact hw
      · exact hs.pending e he
    queue := fun q hq => by
      rcases List.mem_append.1 hq with hq | hq
      · exact hs.queue q hq
      · obtain rfl := List.mem_singleton.1 hq
        exact hw }

theorem WaiterEffect.pdusOk {c : Nat} {w : Waiter} (h : WaiterEffect s c w t) (hs : PdusOk s) (hw : WaiterPdusOk w) :
    PdusOk t := by
  cases h with
  | closed => exact hs.waiterEnd c w (closedError_valid _)
  | passed => exact hs.updateWaiter c fun _ hv => hv.inPhase .alloc
  | alloc =>
    have hcounter : PdusOk { s with tcpTid := s.tcpTid + 1 } := { hs with }
    exact hcounter.updateWaiter c fun _ hv => hv
  | reuse => exact hs.raise _
  | register => exact (hs.register hw.1 c).updateWaiter c fun _ hv => hv.inPhase .wait
  | completed r _ signal => exact hs.waiterEnd c w (hw.2 r signal)

theorem PdusOk.waiterRun (hs : PdusOk s) {c : Nat} (h : waiterCanRun c s = true) : PdusOk (waiterRun c s) := by
  obtain ⟨w, hw, heff⟩ := waiterRun_effect h
  exact heff.pdusOk hs (hs.waiter (List.mem_of_getElem? hw))

theorem PdusOk.dropRecord (hs : PdusOk s) (c : Nat) (w : Waiter) : PdusOk (dropRecord c w s) := by
  obtain ⟨heq, -⟩ | ⟨heq, -⟩ := dropRecord_cases c w s <;> rw [heq]
  · exact { hs with pending := fun e he => hs.pending e ((Assoc.mem_del ..).1 he).1 }
  · exact hs

theorem PdusOk.waiterTimeout (hs : PdusOk s) {c : Nat} (h : waiterTimeUp c s = true) : PdusOk (waiterTimeout c s) := by
  obtain ⟨w, -, -, heq⟩ := waiterTimeout_eq h
  rw [heq]
  exact (hs.dropRecord c w).waiterEnd c w (resultValid_of_none rfl)

/-! ### Commands, events and steps -/

theorem Operands.valid_iff (o : Operands) : o.valid = true ↔ o.pdu.valid = true ∧ o.pdu2.valid = true :=
  Bool.and_eq_true_iff

/-- The slot a stream request creates holds the command's operand PDU and no signal (R400). -/
theorem PdusOk.newWaiter (hs : PdusOk s) (unit : Byte) : WaiterPdusOk (newWaiter unit s) :=
  ⟨((Operands.valid_iff _).1 hs.operands).1, fun _ h => nomatch h⟩

theorem ExecEffect.pdusOk {i : Instr} (h : ExecEffect s i t) (hs : PdusOk s) : PdusOk t := by
  have done : resultValid Result.done := resultValid_of_none rfl
  cases h with
  | answer _ r valid => exact hs.reply _ (valid hs.operands)
  | crc | frame | csr0 | csr1 => exact { hs.reply s.port.host done with }
  | busy => exact hs.raise _
  | rtuStart => exact { hs with }
  | rtuClose _ r valid => exact { hs.reply s.port.host (resultValid_of_none valid) with }
  | tcpStart unit =>
    refine hs.setWaiters fun w hw => ?_
    rcases List.mem_append.1 hw with hw | hw
    · exact hs.waiter hw
    · exact List.mem_singleton.1 hw ▸ hs.newWaiter unit
  | tcpClose _ r valid => exact hs.closeSweep.reply _ (resultValid_of_none valid)
  | awaitLength | awaitBody => exact hs.awaitResponse _ _
  | unsupported _ r valid => exact hs.rtuFinish (resultValid_of_none valid)

theorem PdusOk.issueWord {w : U32} (hs : PdusOk s) (h : issueWord w s = .next t) : PdusOk t := by
  obtain ⟨i, -, hi⟩ | ⟨-, rfl⟩ := issueWord_cases h
  · exact (exec_effect hi).pdusOk hs
  · exact hs.reply _ (resultValid_of_none rfl)

/-- After a reset the only PDU values are the default operands (R500). -/
theorem pdusOk_afterReset (s : State) : PdusOk s.afterReset where
  operands := rfl
  results := List.forall_mem_nil _
  pending := List.forall_mem_nil _
  queue := List.forall_mem_nil _
  waiters := List.forall_mem_nil _
  signals := List.forall_mem_nil _

theorem PdusOk.fireEvent {e : Event} (hs : PdusOk s) (he : eventEnabled e s = true) (h : fireEvent e s = .next t) :
    PdusOk t := by
  cases e with
  | issue host w ops draw =>
    have hops : ops.valid = true := (Bool.and_eq_true_iff.1 he).2
    exact PdusOk.issueWord (s := s.present host ops draw) { hs with operands := hops } h
  | rtuRead => exact hs.rtuRead h
  | consume host => cases h; exact { hs with results := fun e he => hs.results e ((Assoc.mem_del ..).1 he).1 }
  | rtuSend k ioerr => cases h; exact hs.rtuSend k ioerr
  | rtuReadError | rtuExpire => cases h; exact hs.rtuFinish (resultValid_of_none rfl)
  | twWrite k ioerr => cases h; exact hs.writerStep k ioerr
  | trRead => cases h; exact hs.readerStep
  | trIoError => cases h; exact hs.fatal .io
  | waiterRun c => cases h; exact hs.waiterRun he
  | waiterTimeout c => cases h; exact hs.waiterTimeout he
  | tick | serArrive | tcpArrive => cases h; exact { hs with }
  | reset => cases h; exact pdusOk_afterReset s

theorem PdusOk.runEvent {e : Event} (hs : PdusOk s) (h : runEvent e s = .next t) : PdusOk t := by
  obtain ⟨-, rfl⟩ | ⟨-, -, rfl⟩ | ⟨-, he, hfire⟩ := runEvent_cases h
  · exact pdusOk_afterReset s
  · exact hs
  · exact hs.fireEvent he hfire

theorem PdusOk.afterEvent (hs : PdusOk s) : PdusOk (afterEvent s) := by
  obtain ⟨script, turn, heq⟩ := afterEvent_frame s
  rw [heq]
  exact { hs with }

/-- Settles O59: taking the next event out touches no PDU value, and every event keeps each of them valid. -/
theorem stepKeepsEveryPduValid : Obligations.StepKeepsEveryPduValid :=
  fun _ _ hs h => hs.afterEvent.runEvent h

end Sys2Proof.Machine
end

section
/-! PROOF. The constructors yield exactly the valid PDU values (R19, R200). -/

namespace Sys2Proof.Machine

/-! ### What an answered result says -/

/-- A state with a result in the issuing host's port determines that result. -/
theorem State.answer_inj (s : State) {r r' : Result} : s.answer r = s.answer r' ↔ r = r' := by
  refine ⟨fun h => ?_, fun h => h ▸ rfl⟩
  have hport := congrArg (fun t : State => t.results.get s.port.host) h
  simpa using hport

/-- A codec result is a PDU exactly when the codec yields that PDU: an error carries none. -/
theorem codecResult_eq_okPdu_iff {failure : Status} {x : Except Detail PDU} {p : PDU} :
    codecResult failure x = Result.okPdu p ↔ x = .ok p := by
  cases x <;> simp [codecResult, Result.okPdu, Result.err]

/-! ### The constructors, variant by variant -/

/-- The construction that `NEW.<V>` performs on an operand bundle. -/
def construct (v : Variant) (o : Operands) : Except Detail PDU :=
  match v with
  | .rbq => newRbq o.i0 o.i1 o.i2
  | .rbs => newRbs o.i0 o.data
  | .wsbq => newWsbq o.i0 o.i1 o.i2
  | .wsbs => newWsbs o.i0 o.i1 o.i2
  | .wmbq => newWmbq o.i0 o.i1 o.i2 o.data
  | .wmbs => newWmbs o.i0 o.i1 o.i2
  | .rrq => newRrq o.i0 o.i1 o.i2
  | .rrs => newRrs o.i0 o.data
  | .wsrq => newWsrq o.i0 o.i1 o.data
  | .wsrs => newWsrs o.i0 o.i1 o.data
  | .wmrq => newWmrq o.i0 o.i1 o.i2 o.data
  | .wmrs => newWmrs o.i0 o.i1 o.i2
  | .exc => newExc o.i0 o.i1
  | .raw => newRaw o.data

theorem exec_newOf (v : Variant) (s : State) : exec (Instr.newOf v) s = answerNew (construct v s.ops) s := by
  cases v <;> rfl

theorem yieldsPdu_newOf_iff {v : Variant} {s : State} {p : PDU} :
    YieldsPdu (Instr.newOf v) s p ↔ construct v s.ops = .ok p := by
  rw [YieldsPdu, exec_newOf, answerNew, Host.Outcome.next.injEq, State.answer_inj, codecResult_eq_okPdu_iff]

/-- What a construction yields has its tag and is valid. -/
theorem construct_valid {v : Variant} {o : Operands} {p : PDU} (h : construct v o = .ok p) :
    p.variant = v ∧ p.valid = true := by
  cases v with
  | rbq => exact newRbq_valid h
  | rbs => exact newRbs_valid h
  | wsbq => exact newWsbq_valid h
  | wsbs => exact newWsbs_valid h
  | wmbq => exact newWmbq_valid h
  | wmbs => exact newWmbs_valid h
  | rrq => exact newRrq_valid h
  | rrs => exact newRrs_valid h
  | wsrq => exact newWsrq_valid h
  | wsrs => exact newWsrs_valid h
  | wmrq => exact newWmrq_valid h
  | wmrs => exact newWmrs_valid h
  | exc => exact newExc_valid h
  | raw => exact newRaw_valid h

/-! ### The operands of a given PDU -/

/-- A byte field as an integer operand. -/
def byteOperand (b : Byte) : U32 := b.setWidth 32

/-- A 16-bit field as an integer operand. -/
def wordOperand (w : U16) : U32 := w.setWidth 32

/-- A bit field as an integer operand. -/
def bitOperand (value : Bool) : U32 := (BitVec.ofBool value).setWidth 32

@[simp] theorem byteOperand_toNat (b : Byte) : (byteOperand b).toNat = b.toNat :=
  BitVec.toNat_setWidth_of_le (by decide)

@[simp] theorem wordOperand_toNat (w : U16) : (wordOperand w).toNat = w.toNat :=
  BitVec.toNat_setWidth_of_le (by decide)

@[simp] theorem bitOperand_toNat (value : Bool) : (bitOperand value).toNat = value.toNat := by
  cases value <;> rfl

/-- The operand bundle that presents a PDU's fields to its constructor. -/
def PDU.fieldOperands : PDU → Operands
  | .rbq fc x y | .wmbs fc x y | .rrq fc x y | .wmrs fc x y =>
    { n0 := byteOperand fc, n1 := wordOperand x, n2 := wordOperand y }
  | .rbs fc bytes | .rrs fc bytes => { n0 := byteOperand fc, data := bytes }
  | .wsbq fc x value | .wsbs fc x value => { n0 := byteOperand fc, n1 := wordOperand x, n2 := bitOperand value }
  | .wmbq fc x y bytes | .wmrq fc x y bytes =>
    { n0 := byteOperand fc, n1 := wordOperand x, n2 := wordOperand y, data := bytes }
  | .wsrq fc x bytes | .wsrs fc x bytes => { n0 := byteOperand fc, n1 := wordOperand x, data := bytes }
  | .exc b0 b1 => { n0 := byteOperand b0, n1 := byteOperand b1 }
  | .raw b0 b1 bytes => { data := b0 :: b1 :: bytes }

/-- A valid PDU's own fields construct it: validity is that its constructor accepts them, and an accepted field comes back
unchanged. -/
theorem construct_fieldOperands {p : PDU} (h : p.valid = true) : construct p.variant p.fieldOperands = .ok p := by
  cases p with
    simp only [PDU.valid, isOk_iff, construct, PDU.variant, PDU.fieldOperands, Operands.i0, Operands.i1, Operands.i2,
      byteOperand_toNat, wordOperand_toNat, bitOperand_toNat] at h ⊢
  | rbq => simpa [newRbq_ok] using h
  | rbs => simpa [newRbs_ok] using h
  | wsbq => simpa [newWsbq, newSingleBit_ok] using h
  | wsbs => simpa [newWsbs, newSingleBit_ok] using h
  | wmbq => simpa [newWmbq_ok] using h
  | wmbs => simpa [newWmbs, newEcho_ok] using h
  | rrq => simpa [newRrq_ok] using h
  | rrs => simpa [newRrs_ok] using h
  | wsrq => simpa [newWsrq, newSingleRegister_ok] using h
  | wsrs => simpa [newWsrs, newSingleRegister_ok] using h
  | wmrq => simpa [newWmrq_ok] using h
  | wmrs => simpa [newWmrs, newEcho_ok] using h
  | exc => simpa [newExc_ok] using h
  | raw => simp [newRaw_ok]

/-- Settles O20: what a constructor yields is valid and of its tag, and a valid PDU is yielded from its own fields. -/
theorem constructorsYieldExactlyTheValidPdus : Obligations.ConstructorsYieldExactlyTheValidPdus := by
  intro v p
  constructor
  · rintro ⟨s, h⟩
    exact construct_valid (yieldsPdu_newOf_iff.1 h)
  · rintro ⟨rfl, h⟩
    exact ⟨{ State.reset with port := { ops := p.fieldOperands } }, yieldsPdu_newOf_iff.2 (construct_fieldOperands h)⟩

end Sys2Proof.Machine
end

section
/-! PROOF. Every instruction answers a next state (R14, R464). -/

namespace Sys2Proof.Machine

/-- A conditional answers a next state when both its branches do. -/
theorem ite_answers_next {c : Prop} [Decidable c] {a b : Answer} (ha : ∃ t, a = .next t) (hb : ∃ t, b = .next t) :
    ∃ t, (if c then a else b) = .next t := by
  split
  · exact ha
  · exact hb

theorem execCsrRead_answers_next (csr : Byte) (s : State) : ∃ t, execCsrRead csr s = .next t := by
  unfold execCsrRead
  split <;> exact ⟨_, rfl⟩

theorem execCsrWrite_answers_next (csr : Byte) (s : State) : ∃ t, execCsrWrite csr s = .next t := by
  unfold execCsrWrite
  split <;> exact ⟨_, rfl⟩

/-- Settles O31: a command or response class either answers directly, or chooses between branches that each answer. -/
theorem everyInstructionAnswersANextState : Obligations.EveryInstructionAnswersANextState := by
  intro i s
  cases i
  case regsToU16 | regsToF32 | tcpClose => exact ite_answers_next ⟨_, rfl⟩ ⟨_, rfl⟩
  case rtuWriteRequest | rtuClose => exact ite_answers_next ⟨_, rfl⟩ (ite_answers_next ⟨_, rfl⟩ ⟨_, rfl⟩)
  case csrRead csr => exact execCsrRead_answers_next csr s
  case csrWrite csr => exact execCsrWrite_answers_next csr s
  all_goals exact ⟨_, rfl⟩

end Sys2Proof.Machine
end

section
/-! PROOF. A step is the next event of the interleaving (R18, R30). -/

namespace Sys2Proof.Machine

/-- In a healthy state an event fires when it is enabled and changes nothing when it is not. -/
theorem runEvent_of_healthy {s : State} (hs : Healthy s) (e : Event) :
    runEvent e s = if eventEnabled e s then fireEvent e s else .next s := by
  have hfirst := (healthy_iff s).1 hs
  unfold runEvent
  split
  next => rfl
  next f hf => exact nomatch hf.symm.trans hfirst
  next => rfl

/-- Settles O2: the two ways of choosing the next event, and the disabled case of `runEvent`. -/
theorem stepTakesTheNextEvent : Obligations.StepTakesTheNextEvent := by
  intro s
  refine ⟨fun e rest hscript => ?_, fun hscript => ?_, fun e hs he => ?_⟩
  · simp only [step, nextEvent, afterEvent, hscript]
  · simp only [step, nextEvent, afterEvent, hscript]
  · simp [runEvent_of_healthy hs, he]

end Sys2Proof.Machine
end

section
/-! PROOF. What each event leaves unchanged, and the packages that turn a fact about every event into one about every step. -/

namespace Sys2Proof.Machine

variable {s t : State}

/-! ### From events to steps -/

/-- A predicate that ignores the schedule, holds after a reset and is kept by every enabled event is kept by every step. -/
theorem step_keeps {P : State → Prop} (schedule : ∀ s script turn, P s → P { s with script := script, turn := turn })
    (reset : ∀ s : State, P s.afterReset)
    (fire : ∀ e s t, eventEnabled e s = true → fireEvent e s = .next t → P s → P t)
    (hs : P s) (h : step s = .next t) : P t := by
  obtain ⟨script, turn, hafter⟩ := afterEvent_frame s
  have hs' : P (afterEvent s) := hafter ▸ schedule s script turn hs
  obtain ⟨-, rfl⟩ | ⟨-, -, rfl⟩ | ⟨-, he, hfire⟩ := runEvent_cases h
  · exact reset _
  · exact hs'
  · exact fire _ _ _ he hfire hs'

/-- A relation that ignores the schedule, holds of a state and itself and holds over every enabled event but a reset holds
over every step but a reset. -/
theorem step_relates {R : Event → State → State → Prop}
    (schedule : ∀ e s script turn t, R e { s with script := script, turn := turn } t → R e s t)
    (idle : ∀ e s, R e s s)
    (fire : ∀ e s t, e ≠ .reset → eventEnabled e s = true → fireEvent e s = .next t → R e s t)
    (h : step s = .next t) (hreset : nextEvent s ≠ .reset) : R (nextEvent s) s t := by
  obtain ⟨script, turn, hafter⟩ := afterEvent_frame s
  have hstep : R (nextEvent s) (afterEvent s) t := by
    obtain ⟨he, -⟩ | ⟨-, -, rfl⟩ | ⟨-, he, hfire⟩ := runEvent_cases h
    · exact absurd he hreset
    · exact idle _ _
    · exact fire _ _ _ hreset he hfire
  exact schedule _ _ script turn t (hafter ▸ hstep)

/-! ### The frame of each agent's step -/

/-- Ending a serial request returns the framer to `R_IDLE` and may write a result (R361). -/
theorem rtuFinish_frame (r : Result) (s : State) : ∃ m, rtuFinish r s = { s with rtuPhase := .idle, results := m } := by
  obtain ⟨m, heq, -⟩ := rtuFinish_cases r s
  exact ⟨m, heq⟩

/-- The send step appends to `ser_out` and changes the framer and the result ports (R362). -/
theorem rtuSend_frame (k : Nat) (ioerr : Bool) (s : State) : ∃ out p need deadline m, rtuSend k ioerr s =
    { s with
      serOut := s.serOut ++ out, rtuPhase := p, rtuNeed := need, rtuDeadline := deadline, results := m } := by
  obtain ⟨out, r, -, heq⟩ | ⟨out, -, heq⟩ := rtuSend_cases k ioerr s
  · obtain ⟨m, hm⟩ := rtuFinish_frame r { s with serOut := s.serOut ++ out }
    exact ⟨out, .idle, s.rtuNeed, s.rtuDeadline, m, heq.trans hm⟩
  · exact ⟨out, .hdr, 2, _, s.results, heq⟩

theorem ReadEffect.frame (h : ReadEffect s t) :
    ∃ p need m, t = { s with rtuPhase := p, rtuNeed := need, results := m } := by
  cases h with
  | more | short => exact ⟨s.rtuPhase, s.rtuNeed, s.results, rfl⟩
  | finish r =>
    obtain ⟨m, heq⟩ := rtuFinish_frame r s
    exact ⟨.idle, s.rtuNeed, m, heq⟩
  | length => exact ⟨.len, 3, s.results, rfl⟩
  | fixed _ _ _ need => exact ⟨.body, need, s.results, rfl⟩
  | sized => exact ⟨.body, _, s.results, rfl⟩

/-- An enabled read step takes the head of `ser_in` (R366). -/
theorem rtuRead_takes (he : eventEnabled .rtuRead s = true) (h : rtuRead s = .next t) :
    ∃ b rest, s.serIn = b :: rest ∧ ReadEffect (rtuTake b rest s) t := by
  match hin : s.serIn with
  | [] => simp [eventEnabled, hin] at he
  | b :: rest => exact ⟨b, rest, rfl, rtuRead_effect hin h⟩

/-- The reader's byte breaks the connection, completes a request, or is buffered, whatever the buffer holds (R414 to R416). -/
theorem readerByte_cases (b : Byte) (s : State) :
    (∃ cause, readerByte b s = fatal cause s) ∨
    (∃ tid r, readerByte b s = { complete tid r s with trState := .rdHdr [] }) ∨
    ∃ st, readerByte b s = { s with trState := st } := by
  unfold readerByte
  split
  · split
    · exact .inr (.inr ⟨_, rfl⟩)
    · unfold readerHeader
      split
      · rename_i t1 t0 p1 p0 l1 l0 u _ _
        generalize readerFields (rd16 t1 t0) (rd16 p1 p0) (rd16 l1 l0) u s = t,
          readerFields_effect (rd16 t1 t0) (rd16 p1 p0) (rd16 l1 l0) u s = heff
        cases heff with
        | fatal cause => exact .inl ⟨cause, rfl⟩
        | complete tid r => exact .inr (.inl ⟨tid, r, rfl⟩)
        | go st => exact .inr (.inr ⟨st, rfl⟩)
      · exact .inr (.inr ⟨_, rfl⟩)
  · unfold readerBody
    split
    · exact .inr (.inr ⟨_, rfl⟩)
    · exact .inr (.inl ⟨_, _, rfl⟩)
  · exact .inr (.inr ⟨s.trState, rfl⟩)

/-- An enabled reader step takes the head of `tcp_in` (R89). -/
theorem readerStep_takes (he : eventEnabled .trRead s = true) :
    ∃ b rest, s.tcpIn = b :: rest ∧ readerStep s = readerByte b { s with tcpIn := rest } := by
  match hin : s.tcpIn with
  | [] => simp [eventEnabled, hin] at he
  | b :: rest => exact ⟨b, rest, rfl, by simp only [readerStep, hin]⟩

/-- A byte that does not break the connection changes the reader's state, the pending map and the waiters only. -/
theorem readerByte_frame (b : Byte) (s : State) :
    (∃ cause, readerByte b s = fatal cause s) ∨
    ∃ st m ws, readerByte b s = { s with trState := st, tcpMap := m, waiters := ws } := by
  obtain ⟨cause, heq⟩ | ⟨tid, r, heq⟩ | ⟨st, heq⟩ := readerByte_cases b s
  · exact .inl ⟨cause, heq⟩
  · obtain ⟨m, ws, hc⟩ := complete_frame tid r s
    exact .inr ⟨.rdHdr [], m, ws, by rw [heq, hc]⟩
  · exact .inr ⟨st, s.tcpMap, s.waiters, heq⟩

/-- The writer step appends to `tcp_out` (R412). -/
theorem writerStep_frame (k : Nat) (ioerr : Bool) (s : State) : ∃ out m q ws f, writerStep k ioerr s =
    { s with tcpOut := s.tcpOut ++ out, tcpMap := m, tcpQueue := q, waiters := ws, faults := f } := by
  match hq : s.tcpQueue with
  | [] =>
    have heq : writerStep k ioerr s = s := by simp only [writerStep, hq]
    exact ⟨[], s.tcpMap, s.tcpQueue, s.waiters, s.faults, by rw [heq, List.append_nil]⟩
  | q :: rest =>
    obtain heq | ⟨out, heq | ⟨r, -, heq⟩⟩ := writerStep_cases k ioerr hq
    · exact ⟨[], s.tcpMap, rest, s.waiters, s.faults.add .fMbapOverflow, by simp [heq, State.raise]⟩
    · exact ⟨out, s.tcpMap, rest, s.waiters, s.faults, heq⟩
    · obtain ⟨m, ws, hc⟩ := complete_frame q.tid.toNat r { s with tcpQueue := rest, tcpOut := s.tcpOut ++ out }
      exact ⟨out, m, rest, ws, s.faults, heq.trans hc⟩

/-- The step of a waiter's phase may take the next transaction id (R404). -/
theorem WaiterEffect.frame {c : Nat} {w : Waiter} (h : WaiterEffect s c w t) :
    ∃ tid m q ws rs f, (tid = s.tcpTid ∨ tid = s.tcpTid + 1) ∧
      t = { s with tcpTid := tid, tcpMap := m, tcpQueue := q, waiters := ws, results := rs, faults := f } := by
  cases h with
  | alloc => exact ⟨_, s.tcpMap, s.tcpQueue, _, s.results, s.faults, .inr rfl, rfl⟩
  | register => exact ⟨s.tcpTid, _, _, _, s.results, s.faults, .inl rfl, rfl⟩
  | closed | passed | reuse | completed => exact ⟨s.tcpTid, s.tcpMap, s.tcpQueue, _, _, _, .inl rfl, rfl⟩

/-- A timeout changes the pending map, the waiters and the result ports only (R407). -/
theorem waiterTimeout_frame {c : Nat} (h : waiterTimeUp c s = true) :
    ∃ m ws rs, waiterTimeout c s = { s with tcpMap := m, waiters := ws, results := rs } := by
  obtain ⟨w, -, -, heq⟩ := waiterTimeout_eq h
  obtain ⟨hdrop, -⟩ | ⟨hdrop, -⟩ := dropRecord_cases c w s <;> rw [heq, hdrop]
  · exact ⟨_, _, _, rfl⟩
  · exact ⟨s.tcpMap, _, _, rfl⟩

/-! ### What each transport's events leave alone -/

/-- The registers outside the two transports that a rule names: the CRC register, the frame buffer, the timeout CSRs and the
time (R34, R35, R37, R38, R59). -/
def coreRegisters (s : State) := (s.crc, s.fbBuf, s.cfgRtuReadTimeoutMs, s.cfgTcpReqTimeoutMs, s.now)

theorem coreRegisters_eq_iff : coreRegisters t = coreRegisters s ↔
    t.crc = s.crc ∧ t.fbBuf = s.fbBuf ∧ t.cfgRtuReadTimeoutMs = s.cfgRtuReadTimeoutMs ∧
      t.cfgTcpReqTimeoutMs = s.cfgTcpReqTimeoutMs ∧ t.now = s.now := by
  simp only [coreRegisters, Prod.mk.injEq]

theorem rtuFinish_keeps (r : Result) (s : State) :
    streamPart (rtuFinish r s) = streamPart s ∧ coreRegisters (rtuFinish r s) = coreRegisters s := by
  obtain ⟨m, heq⟩ := rtuFinish_frame r s
  rw [heq]
  exact ⟨rfl, rfl⟩

/-- A step of the serial transport changes no state element of the stream transport and no register outside the two. -/
theorem fireEvent_serial {e : Event} (hserial : serialEvent e = true) (he : eventEnabled e s = true)
    (h : fireEvent e s = .next t) : streamPart t = streamPart s ∧ coreRegisters t = coreRegisters s := by
  cases e with
  | rtuSend k ioerr =>
    obtain ⟨out, p, need, deadline, m, heq⟩ := rtuSend_frame k ioerr s
    cases h
    rw [heq]
    exact ⟨rfl, rfl⟩
  | rtuRead =>
    obtain ⟨b, rest, -, heff⟩ := rtuRead_takes he h
    obtain ⟨p, need, m, rfl⟩ := heff.frame
    exact ⟨rfl, rfl⟩
  | rtuReadError | rtuExpire =>
    cases h
    exact rtuFinish_keeps _ s
  | serArrive b => cases h; exact ⟨rfl, rfl⟩
  | _ => contradiction

theorem fatal_keeps (cause : FatalCause) (s : State) :
    serialPart (fatal cause s) = serialPart s ∧ coreRegisters (fatal cause s) = coreRegisters s := by
  obtain ⟨m, ws, heq⟩ := fatal_frame cause s
  rw [heq]
  exact ⟨rfl, rfl⟩

/-- A step of the stream transport changes no state element of the serial transport and no register outside the two. -/
theorem fireEvent_stream {e : Event} (hstream : streamEvent e = true) (he : eventEnabled e s = true)
    (h : fireEvent e s = .next t) : serialPart t = serialPart s ∧ coreRegisters t = coreRegisters s := by
  cases e with
  | twWrite k ioerr =>
    obtain ⟨out, m, q, ws, f, heq⟩ := writerStep_frame k ioerr s
    cases h
    rw [heq]
    exact ⟨rfl, rfl⟩
  | trRead =>
    obtain ⟨b, rest, -, htake⟩ := readerStep_takes he
    cases h
    obtain ⟨cause, heq⟩ | ⟨st, m, ws, heq⟩ := readerByte_frame b { s with tcpIn := rest } <;> rw [htake, heq]
    · exact fatal_keeps cause { s with tcpIn := rest }
    · exact ⟨rfl, rfl⟩
  | trIoError => cases h; exact fatal_keeps .io s
  | waiterRun c =>
    obtain ⟨w, -, heff⟩ := waiterRun_effect he
    obtain ⟨tid, m, q, ws, rs, f, -, heq⟩ := heff.frame
    cases h
    rw [heq]
    exact ⟨rfl, rfl⟩
  | waiterTimeout c =>
    obtain ⟨m, ws, rs, heq⟩ := waiterTimeout_frame he
    cases h
    rw [heq]
    exact ⟨rfl, rfl⟩
  | tcpArrive b => cases h; exact ⟨rfl, rfl⟩
  | _ => contradiction

end Sys2Proof.Machine
end

section
/-! PROOF. What a command changes of each transport and of the registers outside them. -/

namespace Sys2Proof.Machine

variable {s t : State}

/-! ### Commands -/

/-- An issued command is an instruction other than a response class, or an illegal word (R117, R119). -/
theorem fireEvent_issue {h : Nat} {w : U32} {ops : Operands} {draw : Nat}
    (hfire : fireEvent (.issue h w ops draw) s = .next t) :
    (∃ i, decodeCommand w = .ok i ∧ isResponseClass i = false ∧ ExecEffect (s.present h ops draw) i t) ∨
    ((∃ e, decodeCommand w = .error e) ∧ t = (s.present h ops draw).answer (Result.err .errIllegalOp .encoding)) := by
  obtain ⟨i, hdec, hexec⟩ | hillegal := issueWord_cases hfire
  · exact .inl ⟨i, hdec, decodeCommand_command hdec, exec_effect hexec⟩
  · exact .inr hillegal

/-- A command leaves the serial transport alone, starts a request on the idle framer or closes the idle framer. -/
theorem ExecEffect.serialPart_cases {i : Instr} (h : ExecEffect s i t) (hi : isResponseClass i = false) :
    serialPart t = serialPart s ∨
    (∃ a, i = .rtuWriteRequest a ∧ s.rtuPhase = .idle ∧ t =
      { s with
        rtuHost := some s.port.host, rtuAddr := a, rtuTx := rtuFrame a s.ops.pdu.marshal, rtuRx := [], rtuNeed := 0,
        rtuPhase := .send }) ∨
    (i = .rtuClose ∧ s.rtuPhase = .idle ∧ ∃ r, t = { s with serOpen := false, rtuPhase := .closed }.answer r) := by
  cases h with
  | rtuStart a phase => exact .inr (.inl ⟨a, rfl, phase, rfl⟩)
  | rtuClose phase r => exact .inr (.inr ⟨rfl, phase, r, rfl⟩)
  | tcpClose _ r =>
    obtain ⟨m, ws, heq⟩ := closeSweep_frame s
    rw [heq]
    exact .inl rfl
  | answer | crc | frame | csr0 | csr1 | busy | tcpStart => exact .inl rfl
  | awaitLength _ mem | awaitBody _ mem => exact nomatch mem.symm.trans hi
  | unsupported => contradiction

/-- A command leaves the stream transport alone, appends a waiter or closes the open transport. -/
theorem ExecEffect.streamPart_cases {i : Instr} (h : ExecEffect s i t) :
    streamPart t = streamPart s ∨
    (∃ u, i = .tcpWriteRequest u ∧ t = { s with waiters := s.waiters ++ [newWaiter u s] }) ∨
    (i = .tcpClose ∧ s.tcpClosed = false ∧ ∃ r, t = (closeSweep s).answer r) := by
  cases h with
  | tcpStart u => exact .inr (.inl ⟨u, rfl, rfl⟩)
  | tcpClose isOpen r => exact .inr (.inr ⟨rfl, isOpen, r, rfl⟩)
  | unsupported _ r => exact .inl (rtuFinish_keeps r s).1
  | answer | crc | frame | csr0 | csr1 | busy | rtuStart | rtuClose | awaitLength | awaitBody => exact .inl rfl

/-- A command of the CRC engine may write the CRC register, one of the Frame Builder the buffer, a CSR write its CSR; no
other command changes a register outside the two transports. -/
theorem ExecEffect.registers {i : Instr} (h : ExecEffect s i t) :
    (t.crc = s.crc ∨ i = .crcInit ∨ i = .crcWrite) ∧
    (t.fbBuf = s.fbBuf ∨ i = .fbReset ∨ i = .fbAppendBytes ∨ i = .fbAppendU16) ∧
    (t.cfgRtuReadTimeoutMs = s.cfgRtuReadTimeoutMs ∨ i = .csrWrite 0) ∧
    (t.cfgTcpReqTimeoutMs = s.cfgTcpReqTimeoutMs ∨ i = .csrWrite 1) ∧ t.now = s.now := by
  cases h with
  | crc _ mem => exact ⟨.inr mem, .inl rfl, .inl rfl, .inl rfl, rfl⟩
  | frame _ mem => exact ⟨.inl rfl, .inr mem, .inl rfl, .inl rfl, rfl⟩
  | csr0 => exact ⟨.inl rfl, .inl rfl, .inr rfl, .inl rfl, rfl⟩
  | csr1 => exact ⟨.inl rfl, .inl rfl, .inl rfl, .inr rfl, rfl⟩
  | unsupported _ r =>
    obtain ⟨m, heq⟩ := rtuFinish_frame r s
    rw [heq]
    exact ⟨.inl rfl, .inl rfl, .inl rfl, .inl rfl, rfl⟩
  | tcpClose _ r =>
    obtain ⟨m, ws, heq⟩ := closeSweep_frame s
    rw [heq]
    exact ⟨.inl rfl, .inl rfl, .inl rfl, .inl rfl, rfl⟩
  | answer | busy | rtuStart | rtuClose | tcpStart | awaitLength | awaitBody =>
    exact ⟨.inl rfl, .inl rfl, .inl rfl, .inl rfl, rfl⟩

end Sys2Proof.Machine
end

section
/-! PROOF. Every step keeps the serial framer's registers fitting its phase (R45, R46, R366, R367). -/

namespace Sys2Proof.Machine

variable {s t : State}

theorem serialPart_eq_iff : serialPart t = serialPart s ↔
    t.rtuPhase = s.rtuPhase ∧ t.rtuHost = s.rtuHost ∧ t.rtuAddr = s.rtuAddr ∧ t.rtuTx = s.rtuTx ∧ t.rtuRx = s.rtuRx ∧
      t.rtuNeed = s.rtuNeed ∧ t.rtuDeadline = s.rtuDeadline ∧ t.serOut = s.serOut ∧ t.serIn = s.serIn ∧
      t.serOpen = s.serOpen := by
  simp only [serialPart, Prod.mk.injEq]

/-- `SerialOk` reads the serial transport's state only. -/
theorem SerialOk.congr (hs : SerialOk s) (h : serialPart t = serialPart s) : SerialOk t := by
  obtain ⟨hphase, hhost, haddr, -, hrx, hneed, -, -, -, hopen⟩ := serialPart_eq_iff.1 h
  obtain ⟨closed, host, send, hdr, len, body⟩ := hs
  constructor <;> simp only [hphase, hhost, haddr, hrx, hneed, hopen] <;> assumption

theorem RtuPhase.busy_of_reading {p : RtuPhase} (h : p.reading = true) : p.busy = true := by
  cases p with
  | hdr | len | body => rfl
  | idle | send | closed => contradiction

theorem SerialOk.isOpen (hs : SerialOk s) (h : s.rtuPhase ≠ .closed) : s.serOpen ≠ false := mt hs.closed.2 h

/-- A phase in which no request is being read constrains nothing but the stream's being open. -/
theorem SerialOk.finish (hclosed : s.rtuPhase = .closed ↔ s.serOpen = false) (hbusy : s.rtuPhase.busy = true) (r : Result) :
    SerialOk (rtuFinish r s) := by
  have hopen : s.serOpen ≠ false := mt hclosed.2 fun h => by simp [h, RtuPhase.busy] at hbusy
  obtain ⟨m, heq⟩ := rtuFinish_frame r s
  rw [heq]
  exact { closed := iff_of_false nofun hopen, host := nofun, send := nofun, hdr := nofun, len := nofun, body := nofun }

theorem SerialOk.rtuSend (hs : SerialOk s) (hp : s.rtuPhase = .send) (k : Nat) (ioerr : Bool) :
    SerialOk (rtuSend k ioerr s) := by
  have hbusy : s.rtuPhase.busy = true := by simp [hp, RtuPhase.busy]
  have hrx := hs.send hp
  obtain ⟨out, r, -, heq⟩ | ⟨out, -, heq⟩ := rtuSend_cases k ioerr s <;> rw [heq]
  · exact .finish (s := { s with serOut := s.serOut ++ out }) hs.closed hbusy r
  · exact {
      closed := iff_of_false nofun (hs.isOpen (by simp [hp]))
      host := fun _ => hs.host hbusy
      send := nofun
      hdr := fun _ => ⟨rfl, by simp [hrx]⟩
      len := nofun
      body := nofun }

theorem rtuTake_length (b : Byte) (rest : Bytes) (s : State) : (rtuTake b rest s).rtuRx.length = s.rtuRx.length + 1 :=
  List.length_append

/-- A byte taken that leaves its phase short of what it needs (R366). -/
theorem SerialOk.take {b : Byte} {rest : Bytes} (hs : SerialOk s) (hr : s.rtuPhase.reading = true)
    (hhdr : s.rtuPhase = .hdr → s.rtuRx.length + 1 < 2) (hlen : s.rtuPhase = .len → s.rtuRx.length + 1 < 3)
    (hbody : s.rtuPhase = .body → s.rtuRx.length + 1 < s.rtuNeed) : SerialOk (rtuTake b rest s) where
  closed := hs.closed
  host := hs.host
  send hp := by simp [show s.rtuPhase = .send from hp, RtuPhase.reading] at hr
  hdr hp := ⟨(hs.hdr hp).1, (rtuTake_length b rest s).symm ▸ hhdr hp⟩
  len hp := by
    obtain ⟨-, htwo, -⟩ := hs.len hp
    have := hlen hp
    omega
  body hp := by
    obtain ⟨hmin, htwo, -, hhead⟩ := hs.body hp
    rw [rtuTake_length]
    exact ⟨hmin, by omega, hbody hp, by simp [rtuTake, hhead]⟩

/-- The rest of a frame awaited by an open framer (R367, R370). -/
theorem SerialOk.ofBody (hp : t.rtuPhase = .body) (hopen : t.serOpen ≠ false) (hhost : t.rtuHost.isSome = true)
    (hmin : 5 ≤ t.rtuNeed) (htwo : 2 ≤ t.rtuRx.length) (hlt : t.rtuRx.length < t.rtuNeed)
    (hhead : t.rtuRx.head? = some t.rtuAddr) : SerialOk t := by
  constructor <;> simp [hp, hopen, hhost, hmin, htwo, hlt, hhead]

/-- A complete header or length byte of the right address leads to a phase that waits for more (R367). -/
theorem ReadEffect.serialOk {b : Byte} {rest : Bytes} (h : ReadEffect (rtuTake b rest s) t) (hs : SerialOk s)
    (hr : s.rtuPhase.reading = true) : SerialOk t := by
  have hopen : s.serOpen ≠ false := hs.isOpen fun hp => by simp [hp, RtuPhase.reading] at hr
  have hhost : s.rtuHost.isSome = true := hs.host (RtuPhase.busy_of_reading hr)
  have hlength := rtuTake_length b rest s
  cases h with
  | more hne =>
    change _ ≠ s.rtuNeed at hne
    refine hs.take hr (fun hp => ?_) (fun hp => ?_) (fun hp => ?_)
    · have := hs.hdr hp
      omega
    · have := hs.len hp
      omega
    · have := hs.body hp
      omega
  | short hdr len body =>
    refine hs.take hr (fun hp => hlength ▸ hdr hp) (fun hp => hlength ▸ len hp) (fun hp => ?_)
    have hshort := body hp
    have := hs.body hp
    omega
  | finish r _ busy => exact .finish (s := rtuTake b rest s) hs.closed busy r
  | length a fc tl phase hneed rx addr =>
    have hlen : (rtuTake b rest s).rtuRx.length = 2 := hneed.trans (hs.hdr phase).1
    exact {
      closed := iff_of_false nofun hopen
      host := fun _ => hhost
      send := nofun
      hdr := nofun
      len := fun _ => ⟨rfl, hlen, by simp [awaitResponse, rx, addr]⟩
      body := nofun }
  | fixed a fc tl need phase hneed rx addr size =>
    have hlen : (rtuTake b rest s).rtuRx.length = 2 := hneed.trans (hs.hdr phase).1
    exact .ofBody rfl hopen hhost (by simp only [awaitResponse]; omega) (by simp [awaitResponse, hlen])
      (by simp only [awaitResponse, hlen]; omega)
      (by simp [awaitResponse, rx, addr])
  | sized a fc n tl phase hneed rx =>
    obtain ⟨-, htwo, hhead⟩ := hs.len phase
    exact .ofBody rfl hopen hhost (by simp only; omega) (by simp only; omega) (by simp only; omega)
      (by simp [rtuTake, hhead])

theorem SerialOk.issue {h : Nat} {w : U32} {ops : Operands} {draw : Nat} (hs : SerialOk s)
    (hfire : fireEvent (.issue h w ops draw) s = .next t) : SerialOk t := by
  obtain ⟨i, -, hi, heff⟩ | ⟨-, rfl⟩ := fireEvent_issue hfire
  · obtain heq | ⟨a, -, hp, rfl⟩ | ⟨-, hp, r, rfl⟩ := heff.serialPart_cases hi
    · exact hs.congr heq
    · have hopen : s.serOpen ≠ false := hs.isOpen fun h => nomatch hp.symm.trans h
      exact {
        closed := iff_of_false nofun hopen
        host := fun _ => rfl
        send := fun _ => rfl
        hdr := nofun
        len := nofun
        body := nofun }
    · exact { closed := ⟨fun _ => rfl, fun _ => rfl⟩, host := nofun, send := nofun, hdr := nofun, len := nofun, body := nofun }
  · exact hs.congr rfl

theorem serialOk_afterReset (s : State) : SerialOk s.afterReset where
  closed := iff_of_false nofun nofun
  host := nofun
  send := nofun
  hdr := nofun
  len := nofun
  body := nofun

theorem SerialOk.fireEvent {e : Event} (he : eventEnabled e s = true) (h : fireEvent e s = .next t) (hs : SerialOk s) :
    SerialOk t := by
  cases e with
  | issue => exact hs.issue h
  | rtuSend k ioerr => cases h; exact hs.rtuSend (of_decide_eq_true he) k ioerr
  | rtuRead =>
    obtain ⟨b, rest, -, heff⟩ := rtuRead_takes he h
    simp only [eventEnabled, Bool.and_eq_true] at he
    exact heff.serialOk hs he.1.1
  | rtuReadError => cases h; exact .finish hs.closed (RtuPhase.busy_of_reading he) _
  | rtuExpire => cases h; exact .finish hs.closed (RtuPhase.busy_of_reading (Bool.and_eq_true_iff.1 he).1) _
  | twWrite | trRead | trIoError | waiterRun | waiterTimeout | tcpArrive => exact hs.congr (fireEvent_stream rfl he h).1
  | consume | tick => cases h; exact hs.congr rfl
  | serArrive => cases h; exact { hs with }
  | reset => cases h; exact serialOk_afterReset s

/-- Settles O57: only the framer's own steps and the two serial commands touch its registers, and each leaves them fitting
the phase it leads to. -/
theorem stepKeepsSerialRegistersConsistent : Obligations.StepKeepsSerialRegistersConsistent :=
  fun _ _ hs h => step_keeps (fun _ _ _ hs => { hs with }) serialOk_afterReset (fun _ _ _ => SerialOk.fireEvent) hs h

end Sys2Proof.Machine
end

section
/-! PROOF. Every step keeps the stream transport's status consistent (R50, R54, R55, R57, R58). -/

namespace Sys2Proof.Machine

variable {s t : State}

theorem streamPart_eq_iff : streamPart t = streamPart s ↔
    t.tcpClosed = s.tcpClosed ∧ t.tcpTid = s.tcpTid ∧ t.tcpMap = s.tcpMap ∧ t.tcpQueue = s.tcpQueue ∧
      t.twState = s.twState ∧ t.trState = s.trState ∧ t.waiters = s.waiters ∧ t.tcpOut = s.tcpOut ∧ t.tcpIn = s.tcpIn ∧
      t.tcpOpen = s.tcpOpen ∧ t.tcpFatal = s.tcpFatal := by
  simp only [streamPart, Prod.mk.injEq]

/-- `StreamOk` reads the stream transport's state only. -/
theorem StreamOk.congr (hs : StreamOk s) (h : streamPart t = streamPart s) : StreamOk t := by
  obtain ⟨hclosed, -, -, -, hwriter, hreader, -, -, -, hopen, hfatal⟩ := streamPart_eq_iff.1 h
  obtain ⟨connection, writer, reader, cause, buffer⟩ := hs
  constructor <;> simp only [hclosed, hwriter, hreader, hopen, hfatal] <;> assumption

/-- The close sweep closes the connection, stops both loops and sets the closed flag at once (R411). -/
theorem streamOk_closeSweep (s : State) : StreamOk (closeSweep s) := by
  obtain ⟨m, ws, heq⟩ := closeSweep_frame s
  rw [heq]
  exact {
    connection := rfl
    writer := iff_of_true rfl rfl
    reader := iff_of_true rfl rfl
    cause := fun _ => rfl
    buffer := trivial }

/-- A running reader in another running state. -/
theorem StreamOk.setReader (hs : StreamOk s) {st : TrState} (hrun : s.trState ≠ .rdStop) (hst : st ≠ .rdStop)
    (fits : readerFits st) : StreamOk { s with trState := st } :=
  { hs with
    reader := iff_of_false hst (mt hs.reader.2 hrun)
    buffer := fits }

theorem ByteEffect.streamOk (h : ByteEffect s t) (hs : StreamOk s) (hrun : s.trState ≠ .rdStop) : StreamOk t := by
  cases h with
  | fatal cause => exact streamOk_closeSweep _
  | complete tid r =>
    obtain ⟨m, ws, heq⟩ := complete_frame tid r s
    rw [heq]
    exact { hs.setReader (st := .rdHdr []) hrun nofun (by simp [readerFits]) with }
  | go st fits running => exact hs.setReader hrun running fits

theorem StreamOk.issue {h : Nat} {w : U32} {ops : Operands} {draw : Nat} (hs : StreamOk s)
    (hfire : Machine.fireEvent (.issue h w ops draw) s = .next t) : StreamOk t := by
  obtain ⟨i, -, -, heff⟩ | ⟨-, rfl⟩ := fireEvent_issue hfire
  · obtain heq | ⟨u, -, rfl⟩ | ⟨-, -, r, rfl⟩ := heff.streamPart_cases
    · exact hs.congr heq
    · exact { hs with }
    · exact (streamOk_closeSweep _).congr rfl
  · exact hs.congr rfl

theorem streamOk_afterReset (s : State) : StreamOk s.afterReset where
  connection := rfl
  writer := iff_of_false nofun nofun
  reader := iff_of_false nofun nofun
  cause hne := absurd rfl hne
  buffer := by simp [State.afterReset, State.reset, readerFits]

theorem StreamOk.fireEvent {e : Event} (he : eventEnabled e s = true) (h : fireEvent e s = .next t) (hs : StreamOk s) :
    StreamOk t := by
  cases e with
  | issue => exact hs.issue h
  | rtuSend | rtuRead | rtuReadError | rtuExpire | serArrive => exact hs.congr (fireEvent_serial rfl he h).1
  | twWrite k ioerr =>
    obtain ⟨out, m, q, ws, f, heq⟩ := writerStep_frame k ioerr s
    cases h
    rw [heq]
    exact { hs with }
  | trRead =>
    have hrun : s.trState ≠ .rdStop := by
      simp only [eventEnabled, Bool.and_eq_true, decide_eq_true_eq] at he
      exact he.1.1
    obtain ⟨b, rest, hin, -⟩ := readerStep_takes he
    cases h
    have htaken : StreamOk { s with tcpIn := rest } := { hs with }
    exact (readerStep_effect hin hs.buffer hrun).streamOk htaken hrun
  | trIoError => cases h; exact streamOk_closeSweep _
  | waiterRun c =>
    obtain ⟨w, -, heff⟩ := waiterRun_effect he
    obtain ⟨tid, m, q, ws, rs, f, -, heq⟩ := heff.frame
    cases h
    rw [heq]
    exact { hs with }
  | waiterTimeout c =>
    obtain ⟨m, ws, rs, heq⟩ := waiterTimeout_frame he
    cases h
    rw [heq]
    exact { hs with }
  | consume | tick => cases h; exact hs.congr rfl
  | tcpArrive => cases h; exact { hs with }
  | reset => cases h; exact streamOk_afterReset s

/-- Settles O58: the close sweep sets every part of the status at once, and no other step changes any but the reader's
buffer. -/
theorem stepKeepsStreamStatusConsistent : Obligations.StepKeepsStreamStatusConsistent :=
  fun _ _ hs h => step_keeps (fun _ _ _ hs => { hs with }) streamOk_afterReset (fun _ _ _ => StreamOk.fireEvent) hs h

end Sys2Proof.Machine
end

section
/-! PROOF. Every step keeps the result ports single-use (R61, R14, R101): a host waits at one place at most, and with an
empty port. -/

namespace Sys2Proof.Machine

variable {s t : State}

/-! ### The places a host waits at -/

/-- Host `h` waits for a result at place `p`: at the serial framer (`none`), or at the waiter slot `c` (`some c`). -/
def WaitsAt (s : State) (h : Nat) : Option Nat → Prop
  | none => s.rtuPhase.busy = true ∧ s.rtuHost = some h
  | some c => ∃ w, s.waiters[c]? = some w ∧ w.phase ≠ .done ∧ w.host = h

theorem hostWaiting_iff (h : Nat) (s : State) : hostWaiting h s = true ↔ ∃ p, WaitsAt s h p := by
  simp only [hostWaiting, Bool.or_eq_true, Bool.and_eq_true, decide_eq_true_eq, List.any_eq_true]
  constructor
  · rintro (hserial | ⟨w, hw, rfl, hphase⟩)
    · exact ⟨none, hserial⟩
    · obtain ⟨c, hc⟩ := List.mem_iff_getElem?.1 hw
      exact ⟨some c, w, hc, hphase, rfl⟩
  · rintro ⟨p, hp⟩
    cases p with
    | none => exact .inl hp
    | some c =>
      obtain ⟨w, hw, hphase, rfl⟩ := hp
      exact .inr ⟨w, List.mem_of_getElem? hw, rfl, hphase⟩

/-- The result ports are single-use exactly when every waiting host has an empty port and waits at one place. -/
theorem portsOk_iff : PortsOk s ↔
    (∀ h p, WaitsAt s h p → s.results.get h = none) ∧ ∀ h p q, WaitsAt s h p → WaitsAt s h q → p = q := by
  constructor
  · rintro ⟨empty, oneSlot, oneTransport⟩
    refine ⟨fun h p hp => empty h ((hostWaiting_iff h s).2 ⟨p, hp⟩), fun h p q hp hq => ?_⟩
    match p, q, hp, hq with
    | none, none, _, _ => rfl
    | none, some d, ⟨hbusy, hhost⟩, ⟨w, hw, hphase, hwh⟩ =>
      exact absurd (hwh ▸ hhost) (oneTransport w (List.mem_of_getElem? hw) hphase hbusy)
    | some c, none, ⟨w, hw, hphase, hwh⟩, ⟨hbusy, hhost⟩ =>
      exact absurd (hwh ▸ hhost) (oneTransport w (List.mem_of_getElem? hw) hphase hbusy)
    | some c, some d, ⟨v, hv, hvp, hvh⟩, ⟨w, hw, hwp, hwh⟩ =>
      exact congrArg some (oneSlot c d v w hv hw hvp hwp (hvh.trans hwh.symm))
  · rintro ⟨empty, single⟩
    refine ⟨fun h hh => ?_, fun c d v w hv hw hvp hwp hvw => ?_, fun w hw hwp hbusy hhost => ?_⟩
    · obtain ⟨p, hp⟩ := (hostWaiting_iff h s).1 hh
      exact empty h p hp
    · exact Option.some.inj (single w.host (some c) (some d) ⟨v, hv, hvp, hvw⟩ ⟨w, hw, hwp, rfl⟩)
    · obtain ⟨c, hc⟩ := List.mem_iff_getElem?.1 hw
      exact nomatch single w.host none (some c) ⟨hbusy, hhost⟩ ⟨w, hc, hwp, rfl⟩

/-! ### How a step may change the waiting and the ports -/

/-- No host begins to wait and no result is written. -/
theorem PortsOk.waitFewer (hs : PortsOk s) (hwait : ∀ h p, WaitsAt t h p → WaitsAt s h p)
    (hres : ∀ h, s.results.get h = none → t.results.get h = none) : PortsOk t := by
  obtain ⟨empty, single⟩ := portsOk_iff.1 hs
  exact portsOk_iff.2
    ⟨fun h p hp => hres h (empty h p (hwait h p hp)), fun h p q hp hq => single h p q (hwait h p hp) (hwait h q hq)⟩

/-- A host that no longer waits anywhere receives a result. -/
theorem PortsOk.receive (hs : PortsOk s) {h : Nat} {r : Result} (hwait : ∀ g p, WaitsAt t g p → WaitsAt s g p ∧ g ≠ h)
    (hres : t.results = s.results.put h r) : PortsOk t := by
  obtain ⟨empty, single⟩ := portsOk_iff.1 hs
  refine portsOk_iff.2 ⟨fun g p hp => ?_, fun g p q hp hq => single g p q (hwait g p hp).1 (hwait g q hq).1⟩
  obtain ⟨hp, hg⟩ := hwait g p hp
  rw [hres, Assoc.get_put_other _ _ hg]
  exact empty g p hp

/-- The host that waits at `p` receives its result and leaves that place. -/
theorem PortsOk.deliver (hs : PortsOk s) {h : Nat} {p : Option Nat} {r : Result} (hp : WaitsAt s h p)
    (hwait : ∀ g q, WaitsAt t g q → WaitsAt s g q ∧ q ≠ p) (hres : t.results = s.results.put h r) : PortsOk t :=
  hs.receive (fun g q hq => by
    obtain ⟨hold, hne⟩ := hwait g q hq
    refine ⟨hold, ?_⟩
    rintro rfl
    exact hne ((portsOk_iff.1 hs).2 g q p hold hp)) hres

theorem hostReady_iff (h : Nat) (s : State) :
    hostReady h s = true ↔ s.results.get h = none ∧ ∀ p, ¬ WaitsAt s h p := by
  rw [hostReady, Bool.and_eq_true, Option.isNone_iff_eq_none, Bool.not_eq_true', ← Bool.not_eq_true, hostWaiting_iff,
    not_exists]

/-- A host that may issue a command receives the command's result at once. -/
theorem PortsOk.answered (hs : PortsOk s) {h : Nat} {r : Result} (hready : hostReady h s = true)
    (hwait : ∀ g p, WaitsAt t g p → WaitsAt s g p) (hres : t.results = s.results.put h r) : PortsOk t :=
  hs.receive (fun g p hp => ⟨hwait g p hp, by
    rintro rfl
    exact ((hostReady_iff g s).1 hready).2 p (hwait g p hp)⟩) hres

/-- A host that may issue a command begins to wait at `p`. -/
theorem PortsOk.beginWait (hs : PortsOk s) {h : Nat} {p : Option Nat} (hready : hostReady h s = true)
    (hwait : ∀ g q, WaitsAt t g q → WaitsAt s g q ∨ (g = h ∧ q = p)) (hres : t.results = s.results) : PortsOk t := by
  obtain ⟨empty, single⟩ := portsOk_iff.1 hs
  obtain ⟨hempty, hnot⟩ := (hostReady_iff h s).1 hready
  refine portsOk_iff.2 ⟨fun g q hq => ?_, fun g q q' hq hq' => ?_⟩
  · rw [hres]
    obtain hq | ⟨rfl, -⟩ := hwait g q hq
    · exact empty g q hq
    · exact hempty
  · obtain hq | ⟨rfl, rfl⟩ := hwait g q hq <;> obtain hq' | ⟨hg, rfl⟩ := hwait _ q' hq'
    · exact single g q q' hq hq'
    · exact absurd (hg ▸ hq) (hnot q)
    · exact absurd hq' (hnot q')
    · rfl

/-! ### Waiter slots -/

/-- Every unfinished slot of `ws` is an unfinished slot of `vs`, of the same host. -/
def SlotsFrom (vs ws : List Waiter) : Prop :=
  ∀ (c : Nat) (w : Waiter), ws[c]? = some w → w.phase ≠ .done →
    ∃ v, vs[c]? = some v ∧ v.phase ≠ .done ∧ v.host = w.host

theorem SlotsFrom.refl (ws : List Waiter) : SlotsFrom ws ws := fun _ w hw hp => ⟨w, hw, hp, rfl⟩

theorem SlotsFrom.trans {us vs ws : List Waiter} (huv : SlotsFrom us vs) (hvw : SlotsFrom vs ws) : SlotsFrom us ws := by
  intro c w hw hp
  obtain ⟨v, hv, hvp, hvh⟩ := hvw c w hw hp
  obtain ⟨u, hu, hup, huh⟩ := huv c v hv hvp
  exact ⟨u, hu, hup, huh.trans hvh⟩

/-- A slot changed without a change of host, and not back from `S_DONE`. -/
theorem slotsFrom_modify {ws : List Waiter} {c : Nat} {f : Waiter → Waiter}
    (hf : ∀ w, ws[c]? = some w → (f w).host = w.host ∧ ((f w).phase ≠ .done → w.phase ≠ .done)) :
    SlotsFrom ws (ws.modify c f) := by
  intro d w hw hp
  rw [List.getElem?_modify] at hw
  obtain ⟨v, hv, rfl⟩ := Option.map_eq_some_iff.1 hw
  refine ⟨v, hv, ?_⟩
  split at hp <;> rename_i hd
  · subst hd
    exact ⟨(hf v hv).2 hp, by simp [(hf v hv).1]⟩
  · exact ⟨hp, by simp [hd]⟩

theorem slotsFrom_signalled (ws : List Waiter) (c : Nat) (r : Result) :
    SlotsFrom ws (ws.modify c (Waiter.signalled r)) := slotsFrom_modify fun _ _ => ⟨rfl, id⟩

theorem slotsFrom_complete (tid : Nat) (r : Result) (s : State) : SlotsFrom s.waiters (complete tid r s).waiters := by
  obtain ⟨-, heq⟩ | ⟨p, -, heq⟩ := complete_cases tid r s <;> rw [heq]
  · exact .refl _
  · exact slotsFrom_signalled _ _ r

theorem slotsFrom_completeAll (entries : Assoc Pending) (r : Result) (s : State) :
    SlotsFrom s.waiters (completeAll entries r s).waiters := by
  induction entries generalizing s with
  | nil => exact .refl _
  | cons e rest ih => exact (slotsFrom_complete e.1 r s).trans (ih (complete e.1 r s))

theorem slotsFrom_closeSweep (s : State) : SlotsFrom s.waiters (closeSweep s).waiters :=
  slotsFrom_completeAll s.tcpMap (closedError s.tcpFatal)
    { s with tcpClosed := true, tcpOpen := false, twState := .stop, trState := .rdStop }

/-- Waiting by slots and by the framer's host. -/
theorem WaitsAt.mono (hslots : SlotsFrom s.waiters t.waiters)
    (hserial : t.rtuPhase.busy = true → s.rtuPhase.busy = true ∧ t.rtuHost = s.rtuHost) {h : Nat} {p : Option Nat}
    (hp : WaitsAt t h p) : WaitsAt s h p := by
  cases p with
  | none =>
    obtain ⟨hbusy, hhost⟩ := hp
    obtain ⟨hbusy, heq⟩ := hserial hbusy
    exact ⟨hbusy, heq ▸ hhost⟩
  | some c =>
    obtain ⟨w, hw, hphase, hwh⟩ := hp
    obtain ⟨v, hv, hvp, hvh⟩ := hslots c w hw hphase
    exact ⟨v, hv, hvp, hvh.trans hwh⟩

/-- Slots that keep their hosts, with the framer's phase and host and the result ports as they were. -/
theorem PortsOk.slots (hs : PortsOk s) (hslots : SlotsFrom s.waiters t.waiters) (hphase : t.rtuPhase = s.rtuPhase)
    (hhost : t.rtuHost = s.rtuHost) (hres : t.results = s.results) : PortsOk t :=
  hs.waitFewer (fun _ _ => .mono hslots fun hb => ⟨hphase ▸ hb, hhost⟩) fun _ h => hres ▸ h

theorem PortsOk.closeSweep (hs : PortsOk s) : PortsOk (closeSweep s) := by
  have hslots := slotsFrom_closeSweep s
  obtain ⟨m, ws, heq⟩ := closeSweep_frame s
  rw [heq] at hslots ⊢
  exact hs.slots hslots rfl rfl rfl

theorem PortsOk.complete (hs : PortsOk s) (tid : Nat) (r : Result) : PortsOk (complete tid r s) := by
  have hslots := slotsFrom_complete tid r s
  obtain ⟨m, ws, heq⟩ := complete_frame tid r s
  rw [heq] at hslots ⊢
  exact hs.slots hslots rfl rfl rfl

/-! ### The agents -/

theorem PortsOk.rtuFinish (hs : PortsOk s) (hbusy : s.rtuPhase.busy = true) (r : Result) : PortsOk (rtuFinish r s) := by
  have hwait {m : Assoc Result} (g : Nat) (q : Option Nat) (hq : WaitsAt { s with rtuPhase := .idle, results := m } g q) :
      WaitsAt s g q ∧ q ≠ none := by
    cases q with
    | none => exact nomatch hq.1
    | some c => exact ⟨hq, nofun⟩
  obtain ⟨m, heq, rfl | ⟨h, hhost, rfl⟩⟩ := rtuFinish_cases r s <;> rw [heq]
  · exact hs.waitFewer (fun g q hq => (hwait g q hq).1) fun _ h => h
  · exact hs.deliver (p := none) ⟨hbusy, hhost⟩ hwait rfl

/-- The framer goes from one phase of a request to another. -/
theorem PortsOk.setPhase (hs : PortsOk s) (hbusy : s.rtuPhase.busy = true) (hslots : t.waiters = s.waiters)
    (hhost : t.rtuHost = s.rtuHost) (hres : t.results = s.results) : PortsOk t :=
  hs.waitFewer (fun _ _ => .mono (hslots ▸ .refl _) fun _ => ⟨hbusy, hhost⟩) fun _ h => hres ▸ h

theorem PortsOk.rtuSend (hs : PortsOk s) (hp : s.rtuPhase = .send) (k : Nat) (ioerr : Bool) : PortsOk (rtuSend k ioerr s) := by
  have hbusy : s.rtuPhase.busy = true := hp ▸ rfl
  obtain ⟨out, r, -, heq⟩ | ⟨out, -, heq⟩ := rtuSend_cases k ioerr s <;> rw [heq]
  · have hwritten : PortsOk { s with serOut := s.serOut ++ out } := { hs with }
    exact hwritten.rtuFinish hbusy r
  · exact hs.setPhase hbusy rfl rfl rfl

theorem ReadEffect.portsOk (h : ReadEffect s t) (hs : PortsOk s) (hbusy : s.rtuPhase.busy = true) : PortsOk t := by
  cases h with
  | more | short => exact hs
  | finish r => exact hs.rtuFinish hbusy r
  | length | fixed | sized => exact hs.setPhase hbusy rfl rfl rfl

theorem PortsOk.writerStep (hs : PortsOk s) (k : Nat) (ioerr : Bool) : PortsOk (writerStep k ioerr s) := by
  match hq : s.tcpQueue with
  | [] => simpa only [Machine.writerStep, hq] using hs
  | q :: rest =>
    have hwritten (out : Bytes) : PortsOk { s with tcpQueue := rest, tcpOut := s.tcpOut ++ out } := { hs with }
    obtain heq | ⟨out, heq | ⟨r, -, heq⟩⟩ := writerStep_cases k ioerr hq <;> rw [heq]
    · exact { hs with }
    · exact hwritten out
    · exact (hwritten out).complete _ r

theorem PortsOk.fatal (hs : PortsOk s) (cause : FatalCause) : PortsOk (fatal cause s) := PortsOk.closeSweep { hs with }

theorem PortsOk.readerByte (hs : PortsOk s) (b : Byte) : PortsOk (readerByte b s) := by
  obtain ⟨cause, heq⟩ | ⟨tid, r, heq⟩ | ⟨st, heq⟩ := readerByte_cases b s <;> rw [heq]
  · exact hs.fatal cause
  · exact { hs.complete tid r with }
  · exact { hs with }

/-- A waiter that ends hands its result to its host and leaves its slot (R56). -/
theorem PortsOk.waiterEnd (hs : PortsOk s) {c : Nat} {w : Waiter} (hw : s.waiters[c]? = some w) (hphase : w.phase ≠ .done)
    (r : Result) : PortsOk (waiterEnd c w r s) := by
  refine hs.deliver (p := some c) ⟨w, hw, hphase, rfl⟩ (fun g q hq => ⟨?_, ?_⟩) rfl
  · have hslots : SlotsFrom s.waiters (Machine.waiterEnd c w r s).waiters :=
      slotsFrom_modify fun _ _ => ⟨rfl, fun hne => absurd rfl hne⟩
    exact hq.mono hslots fun hb => ⟨hb, rfl⟩
  · rintro rfl
    obtain ⟨v, hv, hvp, -⟩ := hq
    simp only [waiterEnd_eq, List.getElem?_modify, hw] at hv
    obtain rfl : w.inPhase .done = v := by simpa using hv
    exact hvp rfl

theorem WaiterEffect.portsOk {c : Nat} {w : Waiter} (h : WaiterEffect s c w t) (hs : PortsOk s)
    (hw : s.waiters[c]? = some w) : PortsOk t := by
  have hgo {f : Waiter → Waiter} (hphase : w.phase ≠ .done) (hhost : (f w).host = w.host) :
      SlotsFrom s.waiters (s.waiters.modify c f) := slotsFrom_modify fun v hv => by
    obtain rfl := Option.some.inj (hw.symm.trans hv)
    exact ⟨hhost, fun _ => hphase⟩
  cases h with
  | closed phase => exact hs.waiterEnd hw (by simp [phase]) _
  | passed phase => exact hs.slots (hgo (by simp [phase]) rfl) rfl rfl rfl
  | alloc phase => exact hs.slots (hgo (by simp [phase]) rfl) rfl rfl rfl
  | reuse => exact { hs with }
  | register phase => exact hs.slots (hgo (by simp [phase]) rfl) rfl rfl rfl
  | completed r phase => exact hs.waiterEnd hw (by simp [phase]) r

theorem PortsOk.waiterTimeout (hs : PortsOk s) {c : Nat} (h : waiterTimeUp c s = true) : PortsOk (waiterTimeout c s) := by
  obtain ⟨w, hw, hphase, heq⟩ := waiterTimeout_eq h
  have hne : w.phase ≠ .done := by simp [hphase]
  obtain ⟨hdrop, -⟩ | ⟨hdrop, -⟩ := dropRecord_cases c w s <;> rw [heq, hdrop]
  · have hdropped : PortsOk { s with tcpMap := s.tcpMap.del w.tid.toNat } := { hs with }
    exact hdropped.waiterEnd hw hne _
  · exact hs.waiterEnd hw hne _

/-! ### Commands, events and steps -/

theorem ExecEffect.portsOk {i : Instr} (h : ExecEffect s i t) (hi : isResponseClass i = false) (hs : PortsOk s)
    (hready : hostReady s.port.host s = true) : PortsOk t := by
  cases h with
  | answer | crc | frame | csr0 | csr1 => exact hs.answered hready (fun _ _ hp => hp) rfl
  | busy => exact { hs with }
  | rtuStart a phase =>
    refine hs.beginWait (p := none) hready (fun g q hq => ?_) rfl
    cases q with
    | none => exact .inr ⟨(Option.some.inj hq.2).symm, rfl⟩
    | some c => exact .inl hq
  | rtuClose phase r =>
    refine hs.answered (r := r) hready (fun g q hq => ?_) rfl
    cases q with
    | none => exact nomatch hq.1
    | some c => exact hq
  | tcpStart u =>
    refine hs.beginWait (p := some s.waiters.length) hready (fun g q hq => ?_) rfl
    cases q with
    | none => exact .inl hq
    | some c =>
      obtain ⟨w, hw, hphase, rfl⟩ := hq
      rcases Nat.lt_trichotomy c s.waiters.length with hc | rfl | hc
      · exact .inl ⟨w, by rwa [List.getElem?_append_left hc] at hw, hphase, rfl⟩
      · obtain rfl : newWaiter u s = w := by simpa using hw
        exact .inr ⟨rfl, rfl⟩
      · have hlong : (s.waiters ++ [newWaiter u s]).length ≤ c := by simpa using hc
        exact nomatch (List.getElem?_eq_none hlong).symm.trans hw
  | tcpClose _ r =>
    have hslots := slotsFrom_closeSweep s
    obtain ⟨m, ws, heq⟩ := closeSweep_frame s
    rw [heq] at hslots ⊢
    exact hs.answered (r := r) hready (fun g q hq => hq.mono hslots fun hb => ⟨hb, rfl⟩) rfl
  | awaitLength _ mem | awaitBody _ mem => exact nomatch mem.symm.trans hi
  | unsupported => contradiction

theorem not_waitsAt_afterReset (s : State) (h : Nat) (p : Option Nat) : ¬ WaitsAt s.afterReset h p := by
  cases p with
  | none => exact fun hp => nomatch hp.1
  | some c => exact fun ⟨_, hw, _⟩ => nomatch hw

theorem portsOk_afterReset (s : State) : PortsOk s.afterReset :=
  portsOk_iff.2
    ⟨fun h p hp => absurd hp (not_waitsAt_afterReset s h p), fun h p _ hp => absurd hp (not_waitsAt_afterReset s h p)⟩

theorem PortsOk.fireEvent {e : Event} (he : eventEnabled e s = true) (h : fireEvent e s = .next t) (hs : PortsOk s) :
    PortsOk t := by
  cases e with
  | issue host w ops draw =>
    have hready : hostReady host s = true := (Bool.and_eq_true_iff.1 he).1
    have hpresented : PortsOk (s.present host ops draw) := { hs with }
    obtain ⟨i, -, hi, heff⟩ | ⟨-, rfl⟩ := fireEvent_issue h
    · exact heff.portsOk hi hpresented hready
    · exact hpresented.answered hready (fun _ _ hp => hp) rfl
  | consume host =>
    cases h
    refine hs.waitFewer (fun _ _ hp => hp) fun g hg => ?_
    simp [Assoc.get_del, hg]
  | rtuSend k ioerr => cases h; exact hs.rtuSend (of_decide_eq_true he) k ioerr
  | rtuRead =>
    obtain ⟨b, rest, -, heff⟩ := rtuRead_takes he h
    simp only [eventEnabled, Bool.and_eq_true] at he
    have htaken : PortsOk (rtuTake b rest s) := { hs with }
    exact heff.portsOk htaken (RtuPhase.busy_of_reading he.1.1)
  | rtuReadError => cases h; exact hs.rtuFinish (RtuPhase.busy_of_reading he) _
  | rtuExpire => cases h; exact hs.rtuFinish (RtuPhase.busy_of_reading (Bool.and_eq_true_iff.1 he).1) _
  | twWrite k ioerr => cases h; exact hs.writerStep k ioerr
  | trRead =>
    obtain ⟨b, rest, -, htake⟩ := readerStep_takes he
    have htaken : PortsOk { s with tcpIn := rest } := { hs with }
    cases h
    exact htake ▸ htaken.readerByte b
  | trIoError => cases h; exact hs.fatal .io
  | waiterRun c =>
    obtain ⟨w, hw, heff⟩ := waiterRun_effect he
    cases h
    exact heff.portsOk hs hw
  | waiterTimeout c => cases h; exact hs.waiterTimeout he
  | tick | serArrive | tcpArrive => cases h; exact { hs with }
  | reset => cases h; exact portsOk_afterReset s

/-- Settles O60: a command is issued by a host that waits nowhere and has an empty port, and a result is written as its host
stops waiting. -/
theorem stepKeepsResultPortsSingleUse : Obligations.StepKeepsResultPortsSingleUse :=
  fun _ _ hs h => step_keeps (fun _ _ _ hs => { hs with }) portsOk_afterReset (fun _ _ _ => PortsOk.fireEvent) hs h

end Sys2Proof.Machine
end

section
/-! PROOF. Every step keeps the finite maps canonical (R52, R61). -/

namespace Sys2Proof.Machine

variable {s t : State}

theorem MapsOk.reply (hs : MapsOk s) (h : Nat) (r : Result) : MapsOk (s.reply h r) :=
  { hs with resultsCanonical := Assoc.wf_put _ _ _ hs.resultsCanonical }

theorem MapsOk.dropEntry (hs : MapsOk s) (tid : Nat) : MapsOk { s with tcpMap := s.tcpMap.del tid } :=
  { hs with
    pendingCanonical := Assoc.wf_del _ _ hs.pendingCanonical
    pendingKeys := fun e he => hs.pendingKeys e ((Assoc.mem_del ..).1 he).1 }

/-- Registration puts a transaction id, which is below 65536, into the pending map (R405). -/
theorem MapsOk.putEntry (hs : MapsOk s) (tid : U16) (record : Pending) :
    MapsOk { s with tcpMap := s.tcpMap.put tid.toNat record } :=
  { hs with
    pendingCanonical := Assoc.wf_put _ _ _ hs.pendingCanonical
    pendingKeys := fun e he => by
      obtain rfl | he := Assoc.mem_put _ _ _ _ he
      · exact tid.isLt
      · exact hs.pendingKeys e he }

theorem MapsOk.rtuFinish (hs : MapsOk s) (r : Result) : MapsOk (rtuFinish r s) := by
  obtain ⟨m, heq, rfl | ⟨h, -, rfl⟩⟩ := rtuFinish_cases r s <;> rw [heq]
  · exact { hs with }
  · exact { hs.reply h r with }

theorem MapsOk.rtuSend (hs : MapsOk s) (k : Nat) (ioerr : Bool) : MapsOk (rtuSend k ioerr s) := by
  obtain ⟨out, r, -, heq⟩ | ⟨out, -, heq⟩ := rtuSend_cases k ioerr s <;> rw [heq]
  · have hwritten : MapsOk { s with serOut := s.serOut ++ out } := { hs with }
    exact hwritten.rtuFinish r
  · exact { hs with }

theorem ReadEffect.mapsOk (h : ReadEffect s t) (hs : MapsOk s) : MapsOk t := by
  cases h with
  | finish r => exact hs.rtuFinish r
  | more | short | length | fixed | sized => exact { hs with }

theorem MapsOk.complete (hs : MapsOk s) (tid : Nat) (r : Result) : MapsOk (complete tid r s) := by
  obtain ⟨-, heq⟩ | ⟨p, -, heq⟩ := complete_cases tid r s <;> rw [heq]
  · exact hs
  · exact { hs.dropEntry tid with }

theorem MapsOk.completeAll (hs : MapsOk s) (entries : Assoc Pending) (r : Result) : MapsOk (completeAll entries r s) := by
  induction entries generalizing s with
  | nil => exact hs
  | cons e rest ih => exact ih (hs.complete e.1 r)

theorem MapsOk.closeSweep (hs : MapsOk s) : MapsOk (closeSweep s) := by
  have hstopped : MapsOk { s with tcpClosed := true, tcpOpen := false, twState := .stop, trState := .rdStop } := { hs with }
  exact { hstopped.completeAll s.tcpMap (closedError s.tcpFatal) with }

theorem MapsOk.fatal (hs : MapsOk s) (cause : FatalCause) : MapsOk (fatal cause s) := MapsOk.closeSweep { hs with }

theorem MapsOk.writerStep (hs : MapsOk s) (k : Nat) (ioerr : Bool) : MapsOk (writerStep k ioerr s) := by
  match hq : s.tcpQueue with
  | [] => simpa only [Machine.writerStep, hq] using hs
  | q :: rest =>
    have hwritten (out : Bytes) : MapsOk { s with tcpQueue := rest, tcpOut := s.tcpOut ++ out } := { hs with }
    obtain heq | ⟨out, heq | ⟨r, -, heq⟩⟩ := writerStep_cases k ioerr hq <;> rw [heq]
    · exact { hs with }
    · exact hwritten out
    · exact (hwritten out).complete _ r

theorem MapsOk.readerByte (hs : MapsOk s) (b : Byte) : MapsOk (readerByte b s) := by
  obtain ⟨cause, heq⟩ | ⟨tid, r, heq⟩ | ⟨st, heq⟩ := readerByte_cases b s <;> rw [heq]
  · exact hs.fatal cause
  · exact { hs.complete tid r with }
  · exact { hs with }

theorem MapsOk.waiterEnd (hs : MapsOk s) (c : Nat) (w : Waiter) (r : Result) : MapsOk (waiterEnd c w r s) :=
  { hs.reply w.host r with }

theorem WaiterEffect.mapsOk {c : Nat} {w : Waiter} (h : WaiterEffect s c w t) (hs : MapsOk s) : MapsOk t := by
  cases h with
  | closed | completed => exact hs.waiterEnd c w _
  | register => exact { hs.putEntry w.tid { unit := w.unit, req := w.req, waiter := c } with }
  | passed | alloc | reuse => exact { hs with }

theorem MapsOk.waiterTimeout (hs : MapsOk s) {c : Nat} (h : waiterTimeUp c s = true) : MapsOk (waiterTimeout c s) := by
  obtain ⟨w, -, -, heq⟩ := waiterTimeout_eq h
  obtain ⟨hdrop, -⟩ | ⟨hdrop, -⟩ := dropRecord_cases c w s <;> rw [heq, hdrop]
  · exact (hs.dropEntry w.tid.toNat).waiterEnd c w _
  · exact hs.waiterEnd c w _

theorem ExecEffect.mapsOk {i : Instr} (h : ExecEffect s i t) (hs : MapsOk s) : MapsOk t := by
  cases h with
  | answer _ r => exact hs.reply _ r
  | crc | frame | csr0 | csr1 => exact { hs.reply s.port.host Result.done with }
  | rtuClose _ r => exact { hs.reply s.port.host r with }
  | tcpClose _ r => exact hs.closeSweep.reply _ r
  | unsupported _ r => exact hs.rtuFinish r
  | busy | rtuStart | tcpStart | awaitLength | awaitBody => exact { hs with }

theorem mapsOk_afterReset (s : State) : MapsOk s.afterReset where
  pendingCanonical := rfl
  resultsCanonical := rfl
  pendingKeys := List.forall_mem_nil _

theorem MapsOk.fireEvent {e : Event} (he : eventEnabled e s = true) (h : fireEvent e s = .next t) (hs : MapsOk s) :
    MapsOk t := by
  cases e with
  | issue host w ops draw =>
    have hpresented : MapsOk (s.present host ops draw) := { hs with }
    obtain ⟨i, -, -, heff⟩ | ⟨-, rfl⟩ := fireEvent_issue h
    · exact heff.mapsOk hpresented
    · exact hpresented.reply _ _
  | consume host => cases h; exact { hs with resultsCanonical := Assoc.wf_del _ _ hs.resultsCanonical }
  | rtuSend k ioerr => cases h; exact hs.rtuSend k ioerr
  | rtuRead =>
    obtain ⟨b, rest, -, heff⟩ := rtuRead_takes he h
    have htaken : MapsOk (rtuTake b rest s) := { hs with }
    exact heff.mapsOk htaken
  | rtuReadError | rtuExpire => cases h; exact hs.rtuFinish _
  | twWrite k ioerr => cases h; exact hs.writerStep k ioerr
  | trRead =>
    obtain ⟨b, rest, -, htake⟩ := readerStep_takes he
    have htaken : MapsOk { s with tcpIn := rest } := { hs with }
    cases h
    exact htake ▸ htaken.readerByte b
  | trIoError => cases h; exact hs.fatal .io
  | waiterRun c =>
    obtain ⟨w, -, heff⟩ := waiterRun_effect he
    cases h
    exact heff.mapsOk hs
  | waiterTimeout c => cases h; exact hs.waiterTimeout he
  | tick | serArrive | tcpArrive => cases h; exact { hs with }
  | reset => cases h; exact mapsOk_afterReset s

/-- Settles O55: the maps change by insertions at a transaction id or a host and by deletions only. -/
theorem stepKeepsMapsCanonical : Obligations.StepKeepsMapsCanonical :=
  fun _ _ hs h => step_keeps (fun _ _ _ hs => { hs with }) mapsOk_afterReset (fun _ _ _ => MapsOk.fireEvent) hs h

end Sys2Proof.Machine
end

section
/-! PROOF. A command word is the encoding of the instruction it decodes to (R114, R119). -/

namespace Sys2Proof.Machine

/-- A word with clear reserved bits is made of its operation and its argument (R111). -/
theorem commandWord_extract {w : U32} (h : w.extractLsb' 16 16 = 0) :
    commandWord (w.extractLsb' 0 8) (w.extractLsb' 8 8) = w := by
  rw [commandWord, ← h]
  ext i hi
  simp only [BitVec.getElem_append, BitVec.getElem_extractLsb']
  rw [← BitVec.getLsbD_eq_getElem]
  split_ifs <;> exact congrArg w.getLsbD (by omega)

theorem encode_of_argCommand {op : Nat} {arg : Byte} {i : Instr} (h : argCommand op arg = some i) :
    encode i = encodedCommand (BitVec.ofNat 8 op) arg := by
  unfold argCommand at h
  split at h <;> cases h <;> rfl

theorem encode_of_fixedCommand {op : Nat} {i : Instr} (h : fixedCommand op = some i) :
    encode i = encodedCommand (BitVec.ofNat 8 op) := by
  unfold fixedCommand at h
  split at h <;> cases h <;> rfl

/-- The variant tags are numbered in the order of their constructors (R116). -/
theorem ctorIdx_of_variantOf {n : Nat} {v : Variant} (h : variantOf n = some v) : v.ctorIdx = n := by
  unfold variantOf at h
  split at h <;> cases h <;> rfl

theorem encode_newOf (v : Variant) : encode (.newOf v) = encodedCommand (BitVec.ofNat 8 (0x20 + v.ctorIdx)) := by
  cases v <;> rfl

theorem encode_marshalOf (v : Variant) : encode (.marshalOf v) = encodedCommand (BitVec.ofNat 8 (0x30 + v.ctorIdx)) := by
  cases v <;> rfl

theorem encode_unmarshalOf (v : Variant) :
    encode (.unmarshalOf v) = encodedCommand (BitVec.ofNat 8 (0x40 + v.ctorIdx)) := by
  cases v <;> rfl

theorem encode_reinterpretOf (v : Variant) :
    encode (.reinterpretOf v) = encodedCommand (BitVec.ofNat 8 (0x90 + v.ctorIdx)) := by
  cases v <;> rfl

theorem encode_of_variantCommand {group index : Nat} {i : Instr} (h : variantCommand group index = some i) :
    encode i = encodedCommand (BitVec.ofNat 8 (16 * group + index)) := by
  unfold variantCommand at h
  split at h
  case h_5 => contradiction
  all_goals
    obtain ⟨v, hv, rfl⟩ := Option.map_eq_some_iff.1 h
    rw [← ctorIdx_of_variantOf hv]
  · exact encode_newOf v
  · exact encode_marshalOf v
  · exact encode_unmarshalOf v
  · exact encode_reinterpretOf v

/-- A legal word has clear reserved bits and is in one of the three tables of R114, with a clear argument unless its command
takes one (R117). -/
theorem decodeCommand_cases {w : U32} {i : Instr} (h : decodeCommand w = .ok i) :
    w.extractLsb' 16 16 = 0 ∧
      (argCommand (w.extractLsb' 0 8).toNat (w.extractLsb' 8 8) = some i ∨
        (w.extractLsb' 8 8 = 0 ∧
          (fixedCommand (w.extractLsb' 0 8).toNat = some i ∨
            variantCommand ((w.extractLsb' 0 8).toNat / 16) ((w.extractLsb' 0 8).toNat % 16) = some i))) := by
  simp only [decodeCommand] at h
  split at h
  next => cases h
  next hreserved =>
    refine ⟨not_not.1 hreserved, ?_⟩
    split at h
    next j hj =>
      cases h
      exact .inl hj
    next =>
      split at h
      next j hj =>
        split at h
        next harg =>
          cases h
          exact .inr ⟨harg, (Option.or_eq_some_iff.1 hj).imp_right And.right⟩
        next => cases h
      next => cases h

/-- Every legal command word is the encoding of its instruction (R119). -/
theorem encode_of_decodeCommand {w : U32} {i : Instr} (h : decodeCommand w = .ok i) : encode i = ⟨32, w.toNat⟩ := by
  obtain ⟨hreserved, htable⟩ := decodeCommand_cases h
  rw [← commandWord_extract hreserved, ← encodedCommand]
  obtain hi | ⟨harg, hi | hi⟩ := htable
  · rw [encode_of_argCommand hi, BitVec.ofNat_toNat, BitVec.setWidth_eq]
  · rw [harg, encode_of_fixedCommand hi, BitVec.ofNat_toNat, BitVec.setWidth_eq]
  · rw [harg, encode_of_variantCommand hi, Nat.div_add_mod, BitVec.ofNat_toNat, BitVec.setWidth_eq]

end Sys2Proof.Machine
end

section
/-! PROOF. Outside reset, the registers, the byte streams and the closed transports change only as their rules say (R32 to R59,
R86 to R90, R502): what one event may change, in three parts, and from it the three statements about every step. -/

namespace Sys2Proof.Machine

variable {s t : State} {e : Event}

/-! ### The registers outside the transports -/

/-- A word that decodes to `i` is the encoding of `i`. -/
theorem word_of_decodeCommand {w v : U32} {i : Instr} (h : decodeCommand w = .ok i) (hv : encode i = ⟨32, v.toNat⟩) :
    w = v :=
  BitVec.eq_of_toNat_eq (congrArg Encoded.word ((encode_of_decodeCommand h).symm.trans hv))

/-- What an event may change of the registers outside the transports (R34, R35, R37, R38, R59). -/
structure CoreChanges (e : Event) (s t : State) : Prop where
  crc : t.crc ≠ s.crc → ∃ h ops d, e = .issue h 0x01 ops d ∨ e = .issue h 0x02 ops d
  fbBuf : t.fbBuf ≠ s.fbBuf →
    ∃ h ops d, e = .issue h 0x10 ops d ∨ e = .issue h 0x11 ops d ∨ e = .issue h 0x12 ops d
  rtuTimeout : t.cfgRtuReadTimeoutMs ≠ s.cfgRtuReadTimeoutMs → ∃ h ops d, e = .issue h 0x081 ops d
  tcpTimeout : t.cfgTcpReqTimeoutMs ≠ s.cfgTcpReqTimeoutMs → ∃ h ops d, e = .issue h 0x181 ops d
  now : t.now ≠ s.now → t.now = s.now + 1 ∧ e = .tick

theorem CoreChanges.of_kept (h : coreRegisters t = coreRegisters s) : CoreChanges e s t := by
  obtain ⟨hcrc, hfb, hrtu, htcp, hnow⟩ := coreRegisters_eq_iff.1 h
  exact ⟨(absurd hcrc ·), (absurd hfb ·), (absurd hrtu ·), (absurd htcp ·), (absurd hnow ·)⟩

theorem coreChanges_issue {h : Nat} {w : U32} {ops : Operands} {d : Nat}
    (hfire : fireEvent (.issue h w ops d) s = .next t) : CoreChanges (.issue h w ops d) s t := by
  obtain ⟨i, hdec, -, heff⟩ | ⟨-, rfl⟩ := fireEvent_issue hfire
  · obtain ⟨hcrc, hfb, hrtu, htcp, hnow⟩ := heff.registers
    refine ⟨fun hne => ⟨h, ops, d, ?_⟩, fun hne => ⟨h, ops, d, ?_⟩, fun hne => ⟨h, ops, d, ?_⟩, fun hne => ⟨h, ops, d, ?_⟩,
      (absurd hnow ·)⟩
    · obtain rfl | rfl := hcrc.resolve_left hne
      · exact .inl (word_of_decodeCommand hdec rfl ▸ rfl)
      · exact .inr (word_of_decodeCommand hdec rfl ▸ rfl)
    · obtain rfl | rfl | rfl := hfb.resolve_left hne
      · exact .inl (word_of_decodeCommand hdec rfl ▸ rfl)
      · exact .inr (.inl (word_of_decodeCommand hdec rfl ▸ rfl))
      · exact .inr (.inr (word_of_decodeCommand hdec rfl ▸ rfl))
    · obtain rfl := hrtu.resolve_left hne
      exact word_of_decodeCommand hdec rfl ▸ rfl
    · obtain rfl := htcp.resolve_left hne
      exact word_of_decodeCommand hdec rfl ▸ rfl
  · exact .of_kept rfl

theorem coreChanges_fireEvent (hreset : e ≠ .reset) (he : eventEnabled e s = true) (h : fireEvent e s = .next t) :
    CoreChanges e s t := by
  cases e with
  | issue => exact coreChanges_issue h
  | rtuSend | rtuRead | rtuReadError | rtuExpire | serArrive => exact .of_kept (fireEvent_serial rfl he h).2
  | twWrite | trRead | trIoError | waiterRun | waiterTimeout | tcpArrive => exact .of_kept (fireEvent_stream rfl he h).2
  | consume => cases h; exact .of_kept rfl
  | tick => cases h; exact { CoreChanges.of_kept (s := s) (t := s) rfl with now := fun _ => ⟨rfl, rfl⟩ }
  | reset => exact absurd rfl hreset

/-! ### The serial transport -/

/-- What an event may change of the serial device's streams and of a closed framer (R45, R47, R86, R87). -/
structure SerialChanges (e : Event) (s t : State) : Prop where
  output : s.serOut <+: t.serOut
  input : t.serIn = s.serIn ∨ (∃ b, s.serIn = b :: t.serIn ∧ e = .rtuRead) ∨
    ∃ b, t.serIn = s.serIn ++ [b] ∧ e = .serArrive b
  closed : s.rtuPhase = .closed → t.rtuPhase = .closed

theorem SerialChanges.of_kept (h : serialPart t = serialPart s) : SerialChanges e s t := by
  obtain ⟨hphase, -, -, -, -, -, -, hout, hin, -⟩ := serialPart_eq_iff.1 h
  exact { output := hout ▸ List.prefix_rfl, input := .inl hin, closed := fun hp => hphase.trans hp }

/-- The framer's own steps are disabled once it is closed. -/
theorem SerialChanges.of_agent (hp : s.rtuPhase.busy = true) (output : s.serOut <+: t.serOut)
    (input : t.serIn = s.serIn ∨ ∃ b, s.serIn = b :: t.serIn ∧ e = .rtuRead) : SerialChanges e s t where
  output := output
  input := input.imp_right .inl
  closed hclosed := by simp [hclosed, RtuPhase.busy] at hp

theorem serialChanges_issue {h : Nat} {w : U32} {ops : Operands} {d : Nat}
    (hfire : fireEvent (.issue h w ops d) s = .next t) : SerialChanges e s t := by
  obtain ⟨i, -, hi, heff⟩ | ⟨-, rfl⟩ := fireEvent_issue hfire
  · obtain heq | ⟨a, -, hp, rfl⟩ | ⟨-, -, r, rfl⟩ := heff.serialPart_cases hi
    · exact .of_kept heq
    · exact { output := List.prefix_rfl, input := .inl rfl, closed := fun hclosed => nomatch hp.symm.trans hclosed }
    · exact { output := List.prefix_rfl, input := .inl rfl, closed := fun _ => rfl }
  · exact .of_kept rfl

theorem serialChanges_rtuFinish (hp : s.rtuPhase.busy = true) (r : Result) : SerialChanges e s (rtuFinish r s) := by
  obtain ⟨m, heq⟩ := rtuFinish_frame r s
  rw [heq]
  exact .of_agent hp List.prefix_rfl (.inl rfl)

theorem serialChanges_fireEvent (hreset : e ≠ .reset) (he : eventEnabled e s = true) (h : fireEvent e s = .next t) :
    SerialChanges e s t := by
  cases e with
  | issue => exact serialChanges_issue h
  | rtuSend k ioerr =>
    have hp : s.rtuPhase = .send := of_decide_eq_true he
    obtain ⟨out, p, need, deadline, m, heq⟩ := rtuSend_frame k ioerr s
    cases h
    rw [heq]
    exact .of_agent (hp ▸ rfl) (List.prefix_append _ _) (.inl rfl)
  | rtuRead =>
    obtain ⟨b, rest, hin, heff⟩ := rtuRead_takes he h
    obtain ⟨p, need, m, rfl⟩ := heff.frame
    simp only [eventEnabled, Bool.and_eq_true] at he
    exact .of_agent (RtuPhase.busy_of_reading he.1.1) List.prefix_rfl (.inr ⟨b, hin, rfl⟩)
  | rtuReadError => cases h; exact serialChanges_rtuFinish (RtuPhase.busy_of_reading he) _
  | rtuExpire => cases h; exact serialChanges_rtuFinish (RtuPhase.busy_of_reading (Bool.and_eq_true_iff.1 he).1) _
  | serArrive b =>
    cases h
    exact { output := List.prefix_rfl, input := .inr (.inr ⟨b, rfl, rfl⟩), closed := id }
  | twWrite | trRead | trIoError | waiterRun | waiterTimeout | tcpArrive => exact .of_kept (fireEvent_stream rfl he h).1
  | consume | tick => cases h; exact .of_kept rfl
  | reset => exact absurd rfl hreset

/-! ### The stream transport -/

/-- What an event may change of the stream transport's counter, streams, closed flag and fatal cause (R50, R51, R57, R58). -/
structure StreamChanges (e : Event) (s t : State) : Prop where
  counter : t.tcpTid = s.tcpTid ∨ (t.tcpTid = s.tcpTid + 1 ∧ ∃ c, e = .waiterRun c)
  output : s.tcpOut <+: t.tcpOut
  input : t.tcpIn = s.tcpIn ∨ (∃ b, s.tcpIn = b :: t.tcpIn ∧ e = .trRead) ∨
    ∃ b, t.tcpIn = s.tcpIn ++ [b] ∧ e = .tcpArrive b
  closed : s.tcpClosed = true → t.tcpClosed = true
  cause : s.tcpFatal ≠ .none → t.tcpFatal = s.tcpFatal

theorem StreamChanges.of_kept (h : streamPart t = streamPart s) : StreamChanges e s t := by
  obtain ⟨hclosed, htid, -, -, -, -, -, hout, hin, -, hfatal⟩ := streamPart_eq_iff.1 h
  exact {
    counter := .inl htid
    output := hout ▸ List.prefix_rfl
    input := .inl hin
    closed := fun h => hclosed.trans h
    cause := fun _ => hfatal }

/-- An event that leaves the state as it is; the other events are stated as changes to this. -/
theorem StreamChanges.refl (e : Event) (s : State) : StreamChanges e s s := .of_kept rfl

theorem FatalCause.orElse_of_ne {first : FatalCause} (h : first ≠ .none) (cause : FatalCause) :
    first.orElse cause = first := by
  cases first with
  | none => contradiction
  | _ => rfl

theorem StreamChanges.fatal (h : StreamChanges e s t) (cause : FatalCause) : StreamChanges e s (fatal cause t) := by
  obtain ⟨m, ws, heq⟩ := fatal_frame cause t
  rw [heq]
  exact { h with
    closed := fun _ => rfl
    cause := fun hne => by
      have hkept := h.cause hne
      exact (FatalCause.orElse_of_ne (hkept ▸ hne) cause).trans hkept }

theorem streamChanges_issue {h : Nat} {w : U32} {ops : Operands} {d : Nat}
    (hfire : fireEvent (.issue h w ops d) s = .next t) : StreamChanges e s t := by
  obtain ⟨i, -, -, heff⟩ | ⟨-, rfl⟩ := fireEvent_issue hfire
  · obtain heq | ⟨u, -, rfl⟩ | ⟨-, -, r, rfl⟩ := heff.streamPart_cases
    · exact .of_kept heq
    · exact { StreamChanges.refl e s with }
    · obtain ⟨m, ws, heq⟩ := closeSweep_frame (s.present h ops d)
      rw [heq]
      exact { StreamChanges.refl e s with closed := fun _ => rfl }
  · exact .of_kept rfl

theorem streamChanges_trRead {b : Byte} {rest : Bytes} (hin : s.tcpIn = b :: rest) :
    StreamChanges .trRead s (readerByte b { s with tcpIn := rest }) := by
  have htaken : StreamChanges .trRead s { s with tcpIn := rest } :=
    { StreamChanges.refl .trRead s with input := .inr (.inl ⟨b, hin, rfl⟩) }
  obtain ⟨cause, heq⟩ | ⟨st, m, ws, heq⟩ := readerByte_frame b { s with tcpIn := rest } <;> rw [heq]
  · exact htaken.fatal cause
  · exact { htaken with }

theorem streamChanges_fireEvent (hreset : e ≠ .reset) (he : eventEnabled e s = true) (h : fireEvent e s = .next t) :
    StreamChanges e s t := by
  cases e with
  | issue => exact streamChanges_issue h
  | twWrite k ioerr =>
    obtain ⟨out, m, q, ws, f, heq⟩ := writerStep_frame k ioerr s
    cases h
    rw [heq]
    exact { StreamChanges.refl (.twWrite k ioerr) s with output := List.prefix_append _ _ }
  | trRead =>
    obtain ⟨b, rest, hin, htake⟩ := readerStep_takes he
    cases h
    exact htake ▸ streamChanges_trRead hin
  | trIoError => cases h; exact (StreamChanges.refl .trIoError s).fatal .io
  | waiterRun c =>
    obtain ⟨w, -, heff⟩ := waiterRun_effect he
    obtain ⟨tid, m, q, ws, rs, f, htid, heq⟩ := heff.frame
    cases h
    rw [heq]
    exact { StreamChanges.refl (.waiterRun c) s with counter := htid.imp_right fun h => ⟨h, c, rfl⟩ }
  | waiterTimeout c =>
    obtain ⟨m, ws, rs, heq⟩ := waiterTimeout_frame he
    cases h
    rw [heq]
    exact { StreamChanges.refl (.waiterTimeout c) s with }
  | tcpArrive b =>
    cases h
    exact { StreamChanges.refl (.tcpArrive b) s with input := .inr (.inr ⟨b, rfl, rfl⟩) }
  | rtuSend | rtuRead | rtuReadError | rtuExpire | serArrive => exact .of_kept (fireEvent_serial rfl he h).1
  | consume | tick => cases h; exact .of_kept rfl
  | reset => exact absurd rfl hreset

/-! ### Every step but a reset -/

theorem step_coreChanges (h : step s = .next t) (hreset : nextEvent s ≠ .reset) : CoreChanges (nextEvent s) s t :=
  step_relates (fun _ _ _ _ _ h => { h with }) (fun _ _ => .of_kept rfl) (fun _ _ _ => coreChanges_fireEvent) h hreset

theorem step_serialChanges (h : step s = .next t) (hreset : nextEvent s ≠ .reset) : SerialChanges (nextEvent s) s t :=
  step_relates (fun _ _ _ _ _ h => { h with }) (fun _ _ => .of_kept rfl) (fun _ _ _ => serialChanges_fireEvent) h hreset

theorem step_streamChanges (h : step s = .next t) (hreset : nextEvent s ≠ .reset) : StreamChanges (nextEvent s) s t :=
  step_relates (fun _ _ _ _ _ h => { h with }) (fun _ _ => .of_kept rfl) (fun _ _ _ => streamChanges_fireEvent) h hreset

/-- Settles O32: each register's clause is one of the clauses of the event that the step takes. -/
theorem registersChangeOnlyInTheirOwnSteps : Obligations.RegistersChangeOnlyInTheirOwnSteps := by
  intro s t h hreset
  obtain ⟨crc, fbBuf, rtuTimeout, tcpTimeout, now⟩ := step_coreChanges h hreset
  exact ⟨crc, fbBuf, rtuTimeout, tcpTimeout, (step_streamChanges h hreset).counter.resolve_left, now⟩

/-- Settles O33: the agents' writes append, their reads take the head, and arrivals append one byte. -/
theorem streamsGrowAtTheEndAndAreReadAtTheHead : Obligations.StreamsGrowAtTheEndAndAreReadAtTheHead := by
  intro s t h hreset
  have hserial := step_serialChanges h hreset
  have hstream := step_streamChanges h hreset
  exact ⟨hserial.output, hstream.output, hserial.input, hstream.input⟩

/-- Settles O34: a closed framer has no enabled step, and the close sweep keeps the closed flag and the first cause. -/
theorem closedTransportsStayClosed : Obligations.ClosedTransportsStayClosed := by
  intro s t h hreset
  have hstream := step_streamChanges h hreset
  exact ⟨hstream.closed, (step_serialChanges h hreset).closed, hstream.cause⟩

end Sys2Proof.Machine
end

section
/-! PROOF. What a host's consumption and the environment's steps do (R59, R61, R87, R90), and that a recorded fault stops every
step but a reset (R60, R470, R500, R502). -/

namespace Sys2Proof.Machine

variable {s : State}

/-! ### Consumption, ticks and arrivals -/

theorem eventEnabled_consume {h : Nat} (hres : s.results.get h ≠ none) : eventEnabled (.consume h) s = true :=
  Option.isSome_iff_ne_none.2 hres

/-- Settles O36: each of these events is enabled, its effect is one field, and the ports do not say who waits. -/
theorem consumeTickAndArrivalsDoTheirEffect : Obligations.ConsumeTickAndArrivalsDoTheirEffect := by
  intro s hs
  refine ⟨fun h hres => ?_, runEvent_fires hs rfl, fun b => runEvent_fires hs rfl, fun b hopen => runEvent_fires hs hopen⟩
  refine ⟨s.results.del h, runEvent_fires hs (eventEnabled_consume hres), Assoc.get_del_same _ _,
    fun g hg => Assoc.get_del_other _ hg, fun hwait => ?_⟩
  have hwait' : hostWaiting h { s with results := s.results.del h } = false := hwait
  simp [hostReady, hwait']

/-! ### Faults -/

theorem FaultSet.has_of_first {faults : FaultSet} {f : Fault} (h : faults.first = some f) : faults.has f = true := by
  unfold FaultSet.first at h
  repeat' split at h
  all_goals cases h
  all_goals assumption

/-- A recorded fault stops every event but a reset. -/
theorem runEvent_of_fault {e : Event} {f : Fault} (hf : s.faults.first = some f) (he : e ≠ .reset) :
    runEvent e s = .fault f := by
  cases e with
  | reset => contradiction
  | _ => simp only [runEvent, hf]

/-- The framer's read step answers a next state: its completion action is a state or a response class. -/
theorem rtuRead_answers_next (s : State) : ∃ t, rtuRead s = .next t := by
  unfold rtuRead
  split
  next => exact ⟨_, rfl⟩
  next =>
    refine ite_answers_next ?_ ⟨_, rfl⟩
    unfold rtuPhaseDone
    split
    next =>
      unfold rtuHeaderDone
      split
      next => exact ite_answers_next ⟨_, rfl⟩ (everyInstructionAnswersANextState _ _)
      next => exact ⟨_, rfl⟩
    all_goals exact ⟨_, rfl⟩

theorem issueWord_answers_next (w : U32) (s : State) : ∃ t, issueWord w s = .next t := by
  unfold issueWord
  split
  next => exact everyInstructionAnswersANextState _ _
  next => exact ⟨_, rfl⟩

theorem fireEvent_answers_next (e : Event) (s : State) : ∃ t, fireEvent e s = .next t := by
  cases e with
  | issue => exact issueWord_answers_next _ _
  | rtuRead => exact rtuRead_answers_next s
  | _ => exact ⟨_, rfl⟩

theorem afterEvent_faults (s : State) : (afterEvent s).faults = s.faults := by
  obtain ⟨script, turn, heq⟩ := afterEvent_frame s
  rw [heq]

/-- Settles O37: the first fault of the set is answered, an unfaulted event fires or changes nothing, and a reset is tested
before the faults are. -/
theorem faultsStopEveryStepButReset : Obligations.FaultsStopEveryStepButReset := by
  intro s
  refine ⟨fun hfault hreset => ?_, fun hs => ?_, fun hreset => ?_⟩
  · obtain ⟨f, hf⟩ := Option.ne_none_iff_exists'.1 (mt (healthy_iff s).2 hfault)
    exact ⟨f, runEvent_of_fault (afterEvent_faults s ▸ hf) hreset, FaultSet.has_of_first hf⟩
  · have hafter : Healthy (afterEvent s) := (afterEvent_faults s).trans hs
    rw [step_eq, runEvent_of_healthy hafter]
    exact ite_answers_next (fireEvent_answers_next _ _) ⟨_, rfl⟩
  · rw [step_eq, hreset]
    rfl

end Sys2Proof.Machine
end

section
/-! PROOF. The serial transport reads its own state only (R45 to R47): two states that agree on it go on agreeing on it. -/

namespace Sys2Proof.Machine

variable {P : Prop} {s u : State}

/-- Two states agree on the serial transport and on the fault set, and, where `P` holds, on the result ports. -/
structure SerialAlike (P : Prop) (s u : State) : Prop where
  phase : s.rtuPhase = u.rtuPhase
  host : s.rtuHost = u.rtuHost
  addr : s.rtuAddr = u.rtuAddr
  tx : s.rtuTx = u.rtuTx
  rx : s.rtuRx = u.rtuRx
  need : s.rtuNeed = u.rtuNeed
  deadline : s.rtuDeadline = u.rtuDeadline
  output : s.serOut = u.serOut
  input : s.serIn = u.serIn
  isOpen : s.serOpen = u.serOpen
  faults : s.faults = u.faults
  results : P → s.results = u.results

theorem serialAlike_iff : SerialAlike P s u ↔
    serialPart s = serialPart u ∧ s.faults = u.faults ∧ (P → s.results = u.results) := by
  rw [serialPart_eq_iff]
  constructor
  · rintro ⟨phase, host, addr, tx, rx, need, deadline, output, input, isOpen, faults, results⟩
    exact ⟨⟨phase, host, addr, tx, rx, need, deadline, output, input, isOpen⟩, faults, results⟩
  · rintro ⟨⟨phase, host, addr, tx, rx, need, deadline, output, input, isOpen⟩, faults, results⟩
    exact ⟨phase, host, addr, tx, rx, need, deadline, output, input, isOpen, faults, results⟩

/-- Two answers whose next states are related. -/
def NextsRelated (R : State → State → Prop) (a b : Answer) : Prop := ∀ t v, a = .next t → b = .next v → R t v

theorem nextsRelated_next {R : State → State → Prop} : NextsRelated R (.next s) (.next u) ↔ R s u :=
  ⟨fun h => h s u rfl rfl, fun h _ _ hs hu => by cases hs; cases hu; exact h⟩

theorem nextsRelated_ite {R : State → State → Prop} {c : Prop} [Decidable c] {a a' b b' : Answer}
    (ht : NextsRelated R a b) (he : NextsRelated R a' b') :
    NextsRelated R (if c then a else a') (if c then b else b') := by
  split
  · exact ht
  · exact he

theorem SerialAlike.reply (h : SerialAlike P s u) (host : Nat) (r : Result) : SerialAlike P (s.reply host r) (u.reply host r) :=
  { h with results := fun p => congrArg (Assoc.put · host r) (h.results p) }

theorem SerialAlike.answer (h : SerialAlike P s u) (hport : s.port = u.port) (r : Result) :
    SerialAlike P (s.answer r) (u.answer r) := by
  rw [State.answer_eq, State.answer_eq, hport]
  exact h.reply _ r

theorem SerialAlike.raise (h : SerialAlike P s u) (f : Fault) : SerialAlike P (s.raise f) (u.raise f) :=
  { h with faults := congrArg (FaultSet.add · f) h.faults }

theorem SerialAlike.rtuFinish (h : SerialAlike P s u) (r : Result) : SerialAlike P (rtuFinish r s) (rtuFinish r u) := by
  match hhost : u.rtuHost with
  | none => simpa only [Machine.rtuFinish, h.host, hhost] using { h with phase := rfl, host := rfl }
  | some host => simpa only [Machine.rtuFinish, h.host, hhost] using { h.reply host r with phase := rfl }

theorem SerialAlike.awaitResponse (h : SerialAlike P s u) (p : RtuPhase) (need : Nat) :
    SerialAlike P (awaitResponse p need s) (awaitResponse p need u) := { h with need := rfl, phase := rfl }

theorem SerialAlike.rtuTake (h : SerialAlike P s u) (b : Byte) (rest : Bytes) :
    SerialAlike P (rtuTake b rest s) (rtuTake b rest u) :=
  { h with input := rfl, rx := congrArg (· ++ [b]) h.rx }

/-- The send step also reads the time and its timeout CSR (R362). -/
theorem SerialAlike.rtuSend (h : SerialAlike P s u) (hnow : s.now = u.now)
    (htimeout : s.cfgRtuReadTimeoutMs = u.cfgRtuReadTimeoutMs) (k : Nat) (ioerr : Bool) :
    SerialAlike P (rtuSend k ioerr s) (rtuSend k ioerr u) := by
  have hwritten : SerialAlike P (serWrite k ioerr s) (serWrite k ioerr u) :=
    { h with output := by simp only [serWrite, h.output, h.isOpen, h.tx] }
  unfold Machine.rtuSend
  rw [h.isOpen, h.tx]
  split
  · exact hwritten.rtuFinish _
  · unfold rtuSent
    rw [hwritten.addr]
    split
    · exact hwritten.rtuFinish _
    · exact { hwritten with addr := rfl, deadline := by simp only [serWrite, hnow, htimeout], need := rfl, phase := rfl }

/-- A response class does the same at every state (R132). -/
theorem exec_decodeRespFc_uniform (fc : Byte) :
    (∃ p need, ∀ s, exec (decodeRespFc fc) s = .next (awaitResponse p need s)) ∨
    ∃ r, ∀ s, exec (decodeRespFc fc) s = .next (rtuFinish r s) := by
  unfold decodeRespFc
  by_cases h : isExceptionFc fc = true
  · rw [if_pos h]
    exact .inl ⟨.body, 5, fun _ => rfl⟩
  · rw [if_neg h]
    repeat' split
    all_goals first
      | exact .inl ⟨.len, 3, fun _ => rfl⟩
      | exact .inl ⟨.body, 8, fun _ => rfl⟩
      | exact .inr ⟨_, fun _ => rfl⟩

theorem SerialAlike.respond (h : SerialAlike P s u) (fc : Byte) :
    NextsRelated (SerialAlike P) (exec (decodeRespFc fc) s) (exec (decodeRespFc fc) u) := by
  obtain ⟨p, need, heq⟩ | ⟨r, heq⟩ := exec_decodeRespFc_uniform fc <;> rw [heq, heq, nextsRelated_next]
  · exact h.awaitResponse p need
  · exact h.rtuFinish r

theorem SerialAlike.headerDone (h : SerialAlike P s u) :
    NextsRelated (SerialAlike P) (rtuHeaderDone s) (rtuHeaderDone u) := by
  match hrx : u.rtuRx with
  | [] | [_] => simpa only [rtuHeaderDone, h.rx, hrx, nextsRelated_next] using h
  | a :: fc :: _ =>
    simp only [rtuHeaderDone, h.rx, hrx, h.addr]
    exact nextsRelated_ite (nextsRelated_next.2 (h.rtuFinish _)) (h.respond fc)

theorem SerialAlike.lengthDone (h : SerialAlike P s u) : SerialAlike P (rtuLengthDone s) (rtuLengthDone u) := by
  match hrx : u.rtuRx with
  | [] | [_] | [_, _] => simpa only [rtuLengthDone, h.rx, hrx] using h
  | _ :: _ :: n :: _ => simpa only [rtuLengthDone, h.rx, hrx] using { h with rx := rfl, need := rfl, phase := rfl }

theorem SerialAlike.bodyDone (h : SerialAlike P s u) : SerialAlike P (rtuBodyDone s) (rtuBodyDone u) := by
  unfold rtuBodyDone
  rw [h.rx]
  split
  · simp only
    split
    · exact h.rtuFinish _
    · split
      · exact h.rtuFinish _
      · exact h
  · exact h

theorem SerialAlike.phaseDone (h : SerialAlike P s u) :
    NextsRelated (SerialAlike P) (rtuPhaseDone s) (rtuPhaseDone u) := by
  unfold rtuPhaseDone
  rw [h.phase]
  split
  · exact h.headerDone
  · exact nextsRelated_next.2 h.lengthDone
  · exact nextsRelated_next.2 h.bodyDone
  all_goals exact nextsRelated_next.2 h

theorem SerialAlike.rtuRead (h : SerialAlike P s u) : NextsRelated (SerialAlike P) (rtuRead s) (rtuRead u) := by
  match hin : u.serIn with
  | [] => simpa only [Machine.rtuRead, h.input, hin, nextsRelated_next] using h
  | b :: rest =>
    have htaken := h.rtuTake b rest
    simp only [Machine.rtuRead, h.input, hin, htaken.rx, h.need]
    exact nextsRelated_ite htaken.phaseDone (nextsRelated_next.2 htaken)

theorem SerialAlike.enabled {e : Event} (h : SerialAlike P s u) (hnow : s.now = u.now) (he : serialEvent e = true) :
    eventEnabled e s = eventEnabled e u := by
  cases e with
  | rtuSend | rtuRead | rtuReadError | rtuExpire => simp only [eventEnabled, h.phase, h.input, h.deadline, hnow]
  | serArrive => rfl
  | _ => contradiction

theorem SerialAlike.fireEvent {e : Event} (h : SerialAlike P s u) (hnow : s.now = u.now)
    (htimeout : s.cfgRtuReadTimeoutMs = u.cfgRtuReadTimeoutMs) (he : serialEvent e = true) :
    NextsRelated (SerialAlike P) (fireEvent e s) (fireEvent e u) := by
  cases e with
  | rtuSend k ioerr => exact nextsRelated_next.2 (h.rtuSend hnow htimeout k ioerr)
  | rtuRead => exact h.rtuRead
  | rtuReadError | rtuExpire => exact nextsRelated_next.2 (h.rtuFinish _)
  | serArrive b => exact nextsRelated_next.2 { h with input := congrArg (· ++ [b]) h.input }
  | _ => contradiction

theorem SerialAlike.exec {i : Instr} (h : SerialAlike P s u) (hport : s.port = u.port)
    (hi : i = .rtuClose ∨ ∃ a, i = .rtuWriteRequest a) : NextsRelated (SerialAlike P) (exec i s) (exec i u) := by
  have hbusy := nextsRelated_next.2 (h.raise .fRtuBusy)
  obtain rfl | ⟨a, rfl⟩ := hi
  · have hclosed : SerialAlike P
        { s with serOpen := false, rtuPhase := .closed } { u with serOpen := false, rtuPhase := .closed } :=
      { h with isOpen := rfl, phase := rfl }
    simp only [Machine.exec, execRtuClose, h.phase, congrArg Port.draw hport]
    exact nextsRelated_ite (nextsRelated_next.2 (h.answer hport _))
      (nextsRelated_ite hbusy (nextsRelated_next.2 (hclosed.answer hport _)))
  · simp only [Machine.exec, execRtuWriteRequest, h.phase, State.ops, hport]
    refine nextsRelated_ite (nextsRelated_next.2 (h.answer hport _)) (nextsRelated_ite hbusy (nextsRelated_next.2 ?_))
    exact { h with host := rfl, addr := rfl, tx := rfl, rx := rfl, need := rfl, phase := rfl }

end Sys2Proof.Machine
end

section
/-! PROOF. The stream transport reads its own state only (R50 to R58): two states that agree on it go on agreeing on it. -/

namespace Sys2Proof.Machine

variable {P : Prop} {s u : State}

/-- Two states agree on the stream transport and on the fault set, and, where `P` holds, on the result ports. -/
structure StreamAlike (P : Prop) (s u : State) : Prop where
  closed : s.tcpClosed = u.tcpClosed
  tid : s.tcpTid = u.tcpTid
  map : s.tcpMap = u.tcpMap
  queue : s.tcpQueue = u.tcpQueue
  writer : s.twState = u.twState
  reader : s.trState = u.trState
  waiters : s.waiters = u.waiters
  output : s.tcpOut = u.tcpOut
  input : s.tcpIn = u.tcpIn
  isOpen : s.tcpOpen = u.tcpOpen
  cause : s.tcpFatal = u.tcpFatal
  faults : s.faults = u.faults
  results : P → s.results = u.results

theorem streamAlike_iff : StreamAlike P s u ↔
    streamPart s = streamPart u ∧ s.faults = u.faults ∧ (P → s.results = u.results) := by
  rw [streamPart_eq_iff]
  constructor
  · rintro ⟨closed, tid, map, queue, writer, reader, waiters, output, input, isOpen, cause, faults, results⟩
    exact ⟨⟨closed, tid, map, queue, writer, reader, waiters, output, input, isOpen, cause⟩, faults, results⟩
  · rintro ⟨⟨closed, tid, map, queue, writer, reader, waiters, output, input, isOpen, cause⟩, faults, results⟩
    exact ⟨closed, tid, map, queue, writer, reader, waiters, output, input, isOpen, cause, faults, results⟩

theorem StreamAlike.reply (h : StreamAlike P s u) (host : Nat) (r : Result) : StreamAlike P (s.reply host r) (u.reply host r) :=
  { h with results := fun p => congrArg (Assoc.put · host r) (h.results p) }

theorem StreamAlike.answer (h : StreamAlike P s u) (hport : s.port = u.port) (r : Result) :
    StreamAlike P (s.answer r) (u.answer r) := by
  rw [State.answer_eq, State.answer_eq, hport]
  exact h.reply _ r

theorem StreamAlike.raise (h : StreamAlike P s u) (f : Fault) : StreamAlike P (s.raise f) (u.raise f) :=
  { h with faults := congrArg (FaultSet.add · f) h.faults }

theorem StreamAlike.updateWaiter (h : StreamAlike P s u) (c : Nat) (f : Waiter → Waiter) :
    StreamAlike P (s.updateWaiter c f) (u.updateWaiter c f) :=
  { h with waiters := congrArg (List.modify · c f) h.waiters }

/-! ### Completions and the close sweep -/

theorem StreamAlike.get (h : StreamAlike P s u) (tid : Nat) : s.tcpMap.get tid = u.tcpMap.get tid :=
  congrArg (Assoc.get · tid) h.map

theorem StreamAlike.complete (h : StreamAlike P s u) (tid : Nat) (r : Result) :
    StreamAlike P (complete tid r s) (complete tid r u) := by
  have hdel : StreamAlike P { s with tcpMap := s.tcpMap.del tid } { u with tcpMap := u.tcpMap.del tid } :=
    { h with map := congrArg (Assoc.del · tid) h.map }
  unfold Machine.complete
  rw [show s.tcpMap.get tid = u.tcpMap.get tid from congrArg (Assoc.get · tid) h.map]
  split
  · exact hdel.updateWaiter _ _
  · exact h

theorem StreamAlike.completeAll (h : StreamAlike P s u) {entries entries' : Assoc Pending} (hentries : entries = entries')
    {r r' : Result} (hr : r = r') : StreamAlike P (completeAll entries r s) (completeAll entries' r' u) := by
  subst hentries hr
  induction entries generalizing s u with
  | nil => exact h
  | cons e rest ih => exact ih (h.complete e.1 r)

theorem StreamAlike.closeSweep (h : StreamAlike P s u) : StreamAlike P (closeSweep s) (closeSweep u) := by
  have hstopped : StreamAlike P
      { s with tcpClosed := true, tcpOpen := false, twState := .stop, trState := .rdStop }
      { u with tcpClosed := true, tcpOpen := false, twState := .stop, trState := .rdStop } :=
    { h with closed := rfl, isOpen := rfl, writer := rfl, reader := rfl }
  exact { hstopped.completeAll h.map (congrArg closedError h.cause) with queue := rfl }

theorem closeSweep_port (s : State) : (closeSweep s).port = s.port := by
  obtain ⟨m, ws, heq⟩ := closeSweep_frame s
  rw [heq]

theorem StreamAlike.fatal (h : StreamAlike P s u) (cause : FatalCause) : StreamAlike P (fatal cause s) (fatal cause u) :=
  StreamAlike.closeSweep { h with cause := congrArg (FatalCause.orElse · cause) h.cause }

/-! ### The loops -/

theorem StreamAlike.tcpWrite (h : StreamAlike P s u) (k : Nat) (ioerr : Bool) (frame : Bytes) :
    StreamAlike P (tcpWrite k ioerr frame s) (tcpWrite k ioerr frame u) :=
  { h with output := by simp only [Machine.tcpWrite, h.output, h.isOpen] }

theorem StreamAlike.writeItem (h : StreamAlike P s u) (k : Nat) (ioerr : Bool) (q : QItem) :
    StreamAlike P (writeItem k ioerr q s) (writeItem k ioerr q u) := by
  unfold Machine.writeItem
  split
  · exact h.raise _
  · simp only [h.isOpen]
    split
    · exact (h.tcpWrite _ _ _).complete _ _
    · exact h.tcpWrite _ _ _

theorem StreamAlike.writerStep (h : StreamAlike P s u) (k : Nat) (ioerr : Bool) :
    StreamAlike P (writerStep k ioerr s) (writerStep k ioerr u) := by
  unfold Machine.writerStep
  rw [h.queue]
  split
  next q rest _ =>
    have htaken : StreamAlike P { s with tcpQueue := rest } { u with tcpQueue := rest } := { h with queue := rfl }
    exact htaken.writeItem k ioerr q
  · exact h

theorem StreamAlike.setReader (h : StreamAlike P s u) (st : TrState) :
    StreamAlike P { s with trState := st } { u with trState := st } := { h with reader := rfl }

theorem StreamAlike.readerFields (h : StreamAlike P s u) (tid proto length : U16) (unit : Byte) :
    StreamAlike P (readerFields tid proto length unit s) (readerFields tid proto length unit u) := by
  unfold Machine.readerFields
  rw [show s.tcpMap.get tid.toNat = u.tcpMap.get tid.toNat from congrArg (Assoc.get · tid.toNat) h.map]
  repeat' split
  · exact h.fatal _
  · exact h.fatal _
  · exact h.fatal _
  · exact h.fatal _
  · exact (h.complete _ _).setReader _
  · exact h.setReader _

theorem StreamAlike.readerHeader (h : StreamAlike P s u) (buf : Bytes) :
    StreamAlike P (readerHeader buf s) (readerHeader buf u) := by
  unfold Machine.readerHeader
  split
  · exact h.readerFields ..
  · exact h.setReader _

theorem StreamAlike.readerBody (h : StreamAlike P s u) (tid : U16) (unit : Byte) (need : Nat) (buf : Bytes) :
    StreamAlike P (readerBody tid unit need buf s) (readerBody tid unit need buf u) := by
  unfold Machine.readerBody
  split
  · exact h.setReader _
  · exact (h.complete _ _).setReader _

theorem StreamAlike.readerByte (h : StreamAlike P s u) (b : Byte) : StreamAlike P (readerByte b s) (readerByte b u) := by
  unfold Machine.readerByte
  rw [h.reader]
  split
  · split
    · exact h.setReader _
    · exact h.readerHeader _
  · exact h.readerBody ..
  · exact h

theorem StreamAlike.readerStep (h : StreamAlike P s u) : StreamAlike P (readerStep s) (readerStep u) := by
  unfold Machine.readerStep
  rw [h.input]
  split
  next b rest _ =>
    have htaken : StreamAlike P { s with tcpIn := rest } { u with tcpIn := rest } := { h with input := rfl }
    exact htaken.readerByte b
  · exact h

/-! ### The waiters -/

theorem StreamAlike.waiterEnd (h : StreamAlike P s u) (c : Nat) (w : Waiter) (r : Result) :
    StreamAlike P (waiterEnd c w r s) (waiterEnd c w r u) := (h.reply w.host r).updateWaiter c _

theorem StreamAlike.waiterCheck (h : StreamAlike P s u) (c : Nat) (w : Waiter) :
    StreamAlike P (waiterCheck c w s) (waiterCheck c w u) := by
  unfold Machine.waiterCheck
  rw [h.closed, h.cause]
  split
  · exact h.waiterEnd ..
  · exact h.updateWaiter ..

theorem StreamAlike.waiterAlloc (h : StreamAlike P s u) (c : Nat) :
    StreamAlike P (waiterAlloc c s) (waiterAlloc c u) := by
  have hcounter : StreamAlike P { s with tcpTid := s.tcpTid + 1 } { u with tcpTid := u.tcpTid + 1 } :=
    { h with tid := congrArg (· + 1) h.tid }
  unfold Machine.waiterAlloc
  rw [h.tid] at hcounter ⊢
  exact hcounter.updateWaiter c _

theorem StreamAlike.waiterRegister (h : StreamAlike P s u) (c : Nat) (w : Waiter) :
    StreamAlike P (waiterRegister c w s) (waiterRegister c w u) := by
  unfold Machine.waiterRegister
  rw [show s.tcpMap.get w.tid.toNat = u.tcpMap.get w.tid.toNat from congrArg (Assoc.get · w.tid.toNat) h.map]
  split
  · exact h.raise _
  · refine StreamAlike.updateWaiter ?_ c _
    exact { h with map := congrArg (Assoc.put · _ _) h.map, queue := congrArg (· ++ _) h.queue }

theorem StreamAlike.waiterRun (h : StreamAlike P s u) (c : Nat) : StreamAlike P (waiterRun c s) (waiterRun c u) := by
  unfold Machine.waiterRun
  rw [h.waiters]
  split
  · split
    · exact h.waiterCheck ..
    · exact h.waiterAlloc ..
    · exact h.waiterRegister ..
    · exact h.waiterEnd ..
    · exact h
    · exact h
  · exact h

theorem StreamAlike.dropRecord (h : StreamAlike P s u) (c : Nat) (w : Waiter) :
    StreamAlike P (dropRecord c w s) (dropRecord c w u) := by
  unfold Machine.dropRecord
  rw [show s.tcpMap.get w.tid.toNat = u.tcpMap.get w.tid.toNat from congrArg (Assoc.get · w.tid.toNat) h.map]
  split
  · split
    · exact { h with map := congrArg (Assoc.del · _) h.map }
    · exact h
  · exact h

theorem StreamAlike.waiterTimeout (h : StreamAlike P s u) (c : Nat) :
    StreamAlike P (waiterTimeout c s) (waiterTimeout c u) := by
  unfold Machine.waiterTimeout
  rw [h.waiters]
  split
  · exact (h.dropRecord ..).waiterEnd ..
  · exact h

/-! ### Events and commands -/

theorem StreamAlike.enabled {e : Event} (h : StreamAlike P s u) (hnow : s.now = u.now) (he : streamEvent e = true) :
    eventEnabled e s = eventEnabled e u := by
  cases e with
  | twWrite | trRead | trIoError | tcpArrive => simp only [eventEnabled, h.writer, h.queue, h.reader, h.isOpen, h.input]
  | waiterRun => simp only [eventEnabled, waiterCanRun, h.waiters, queueHasRoom_true]
  | waiterTimeout => simp only [eventEnabled, waiterTimeUp, h.waiters, hnow]
  | _ => contradiction

theorem StreamAlike.fireEvent {e : Event} (h : StreamAlike P s u) (he : streamEvent e = true) :
    NextsRelated (StreamAlike P) (fireEvent e s) (fireEvent e u) := by
  cases e with
  | twWrite k ioerr => exact nextsRelated_next.2 (h.writerStep k ioerr)
  | trRead => exact nextsRelated_next.2 h.readerStep
  | trIoError => exact nextsRelated_next.2 (h.fatal .io)
  | waiterRun c => exact nextsRelated_next.2 (h.waiterRun c)
  | waiterTimeout c => exact nextsRelated_next.2 (h.waiterTimeout c)
  | tcpArrive b => exact nextsRelated_next.2 { h with input := congrArg (· ++ [b]) h.input }
  | _ => contradiction

/-- A stream request also reads the time and its timeout CSR (R400). -/
theorem StreamAlike.exec {i : Instr} (h : StreamAlike P s u) (hport : s.port = u.port) (hnow : s.now = u.now)
    (htimeout : s.cfgTcpReqTimeoutMs = u.cfgTcpReqTimeoutMs) (hi : i = .tcpClose ∨ ∃ a, i = .tcpWriteRequest a) :
    NextsRelated (StreamAlike P) (exec i s) (exec i u) := by
  obtain rfl | ⟨a, rfl⟩ := hi
  · have hswept : (Machine.closeSweep s).port = (Machine.closeSweep u).port := by rw [closeSweep_port, closeSweep_port, hport]
    simp only [Machine.exec, execTcpClose, h.closed, h.cause, congrArg Port.draw hport]
    exact nextsRelated_ite (nextsRelated_next.2 (h.answer hport _)) (nextsRelated_next.2 (h.closeSweep.answer hswept _))
  · have hwaiter : newWaiter a s = newWaiter a u := by simp only [newWaiter, State.ops, hport, hnow, htimeout]
    exact nextsRelated_next.2 { h with waiters := by rw [h.waiters, hwaiter] }

end Sys2Proof.Machine
end

section
/-! PROOF. The two transports do not interfere (R35, R45 to R58, R512): each leaves the other alone and reads its own state. -/

namespace Sys2Proof.Machine

variable {s t : State}

/-! ### What a transport's commands leave alone -/

/-- The operation of a word names the table that its instruction stands in (R114, R119). -/
theorem decodeCommand_table {w : U32} {i : Instr} {op : Nat} (hop : w.toNat % 256 = op) (h : decodeCommand w = .ok i) :
    (∃ arg, argCommand op arg = some i) ∨ fixedCommand op = some i ∨ variantCommand (op / 16) (op % 16) = some i := by
  have hextract : (w.extractLsb' 0 8).toNat = op := hop ▸ BitVec.extractLsb'_toNat ..
  obtain ⟨-, htable⟩ := decodeCommand_cases h
  rw [hextract] at htable
  exact htable.imp (fun hi => ⟨_, hi⟩) And.right

/-- A serial command word decodes to a serial command (R114). -/
theorem decodeCommand_serialWord {w : U32} {i : Instr} (hw : serialWord w = true) (h : decodeCommand w = .ok i) :
    i = .rtuClose ∨ ∃ a, i = .rtuWriteRequest a := by
  obtain hop | hop := of_decide_eq_true hw <;> obtain ⟨arg, hi⟩ | hi | hi := decodeCommand_table hop h <;> cases hi
  · exact .inr ⟨arg, rfl⟩
  · exact .inl rfl

/-- A stream command word decodes to a stream command (R114). -/
theorem decodeCommand_streamWord {w : U32} {i : Instr} (hw : streamWord w = true) (h : decodeCommand w = .ok i) :
    i = .tcpClose ∨ ∃ a, i = .tcpWriteRequest a := by
  obtain hop | hop := of_decide_eq_true hw <;> obtain ⟨arg, hi⟩ | hi | hi := decodeCommand_table hop h <;> cases hi
  · exact .inr ⟨arg, rfl⟩
  · exact .inl rfl

theorem ExecEffect.serialCommand {i : Instr} (h : ExecEffect s i t) (hi : i = .rtuClose ∨ ∃ a, i = .rtuWriteRequest a) :
    streamPart t = streamPart s ∧ t.crc = s.crc ∧ t.fbBuf = s.fbBuf := by
  obtain ⟨hcrc, hfb, -⟩ := h.registers
  obtain rfl | ⟨a, rfl⟩ := hi <;>
    exact ⟨h.streamPart_cases.resolve_right (by simp), hcrc.resolve_right (by simp), hfb.resolve_right (by simp)⟩

theorem ExecEffect.streamCommand {i : Instr} (h : ExecEffect s i t) (hi : i = .tcpClose ∨ ∃ a, i = .tcpWriteRequest a) :
    serialPart t = serialPart s ∧ t.crc = s.crc ∧ t.fbBuf = s.fbBuf := by
  obtain ⟨hcrc, hfb, -⟩ := h.registers
  obtain rfl | ⟨a, rfl⟩ := hi <;>
    exact ⟨(h.serialPart_cases rfl).resolve_right (by simp), hcrc.resolve_right (by simp), hfb.resolve_right (by simp)⟩

/-- A command word of a transport ends as a command of that transport or as an illegal word. -/
theorem issue_serialWord {h : Nat} {w : U32} {ops : Operands} {d : Nat} (hw : serialWord w = true)
    (hfire : fireEvent (.issue h w ops d) s = .next t) : streamPart t = streamPart s ∧ t.crc = s.crc ∧ t.fbBuf = s.fbBuf := by
  obtain ⟨i, hdec, -, heff⟩ | ⟨-, rfl⟩ := fireEvent_issue hfire
  · exact heff.serialCommand (decodeCommand_serialWord hw hdec)
  · exact ⟨rfl, rfl, rfl⟩

theorem issue_streamWord {h : Nat} {w : U32} {ops : Operands} {d : Nat} (hw : streamWord w = true)
    (hfire : fireEvent (.issue h w ops d) s = .next t) : serialPart t = serialPart s ∧ t.crc = s.crc ∧ t.fbBuf = s.fbBuf := by
  obtain ⟨i, hdec, -, heff⟩ | ⟨-, rfl⟩ := fireEvent_issue hfire
  · exact heff.streamCommand (decodeCommand_streamWord hw hdec)
  · exact ⟨rfl, rfl, rfl⟩

/-- An event of the serial transport: a step of its agent or its device, or one of its commands. -/
def SerialStep (e : Event) : Prop := serialEvent e = true ∨ ∃ h w ops d, e = .issue h w ops d ∧ serialWord w = true

/-- An event of the stream transport: a step of its agents or its peer, or one of its commands. -/
def StreamStep (e : Event) : Prop := streamEvent e = true ∨ ∃ h w ops d, e = .issue h w ops d ∧ streamWord w = true

theorem fireEvent_serialStep {e : Event} (hs : SerialStep e) (he : eventEnabled e s = true) (h : fireEvent e s = .next t) :
    streamPart t = streamPart s ∧ t.crc = s.crc ∧ t.fbBuf = s.fbBuf := by
  obtain hev | ⟨host, w, ops, d, rfl, hw⟩ := hs
  · obtain ⟨hstream, hcore⟩ := fireEvent_serial hev he h
    obtain ⟨hcrc, hfb, -⟩ := coreRegisters_eq_iff.1 hcore
    exact ⟨hstream, hcrc, hfb⟩
  · exact issue_serialWord hw h

theorem fireEvent_streamStep {e : Event} (hs : StreamStep e) (he : eventEnabled e s = true) (h : fireEvent e s = .next t) :
    serialPart t = serialPart s ∧ t.crc = s.crc ∧ t.fbBuf = s.fbBuf := by
  obtain hev | ⟨host, w, ops, d, rfl, hw⟩ := hs
  · obtain ⟨hserial, hcore⟩ := fireEvent_stream hev he h
    obtain ⟨hcrc, hfb, -⟩ := coreRegisters_eq_iff.1 hcore
    exact ⟨hserial, hcrc, hfb⟩
  · exact issue_streamWord hw h

theorem SerialStep.ne_reset {e : Event} (h : SerialStep e) : e ≠ .reset := by
  rintro rfl
  obtain h | ⟨_, _, _, _, h, -⟩ := h <;> cases h

theorem StreamStep.ne_reset {e : Event} (h : StreamStep e) : e ≠ .reset := by
  rintro rfl
  obtain h | ⟨_, _, _, _, h, -⟩ := h <;> cases h

theorem step_serialStep (h : step s = .next t) (hs : SerialStep (nextEvent s)) :
    streamPart t = streamPart s ∧ t.crc = s.crc ∧ t.fbBuf = s.fbBuf :=
  step_relates (R := fun e s t => SerialStep e → streamPart t = streamPart s ∧ t.crc = s.crc ∧ t.fbBuf = s.fbBuf)
    (fun _ _ _ _ _ h => h) (fun _ _ _ => ⟨rfl, rfl, rfl⟩) (fun _ _ _ _ he h hs => fireEvent_serialStep hs he h)
    h hs.ne_reset hs

theorem step_streamStep (h : step s = .next t) (hs : StreamStep (nextEvent s)) :
    serialPart t = serialPart s ∧ t.crc = s.crc ∧ t.fbBuf = s.fbBuf :=
  step_relates (R := fun e s t => StreamStep e → serialPart t = serialPart s ∧ t.crc = s.crc ∧ t.fbBuf = s.fbBuf)
    (fun _ _ _ _ _ h => h) (fun _ _ _ => ⟨rfl, rfl, rfl⟩) (fun _ _ _ _ he h hs => fireEvent_streamStep hs he h)
    h hs.ne_reset hs

/-! ### What a transport's events and commands read -/

/-- Events related at two healthy states that enable the same of them. -/
theorem nextsRelated_runEvent {R : State → State → Prop} {s u : State} {e : Event} (hs : Healthy s) (hu : Healthy u)
    (hen : eventEnabled e s = eventEnabled e u) (hidle : R s u) (hfire : NextsRelated R (fireEvent e s) (fireEvent e u)) :
    NextsRelated R (runEvent e s) (runEvent e u) := by
  rw [runEvent_of_healthy hs, runEvent_of_healthy hu, hen]
  exact nextsRelated_ite hfire (nextsRelated_next.2 hidle)

/-- Settles O35: an event or a command of one transport changes neither the other transport's state nor the registers of the
CRC engine and the Frame Builder, and at two states that agree on its own transport it does the same. -/
theorem transportsDoNotInterfere : Obligations.TransportsDoNotInterfere := by
  refine ⟨fun s t h => ⟨fun hs => ?_, fun hs => ?_⟩, fun s u t v hs hu => ⟨?_, ?_, ?_, ?_⟩⟩
  · exact step_serialStep h hs
  · exact step_streamStep h hs
  all_goals have hfaults : s.faults = u.faults := Eq.trans hs (Eq.symm hu)
  · intro e he hpart hnow htimeout ht hv
    have hall : SerialAlike (s.results = u.results) s u := serialAlike_iff.2 ⟨hpart, hfaults, id⟩
    exact serialAlike_iff.1
      (nextsRelated_runEvent hs hu (hall.enabled hnow he) hall (hall.fireEvent hnow htimeout he) t v ht hv)
  · intro e he hpart hnow ht hv
    have hall : StreamAlike (s.results = u.results) s u := streamAlike_iff.2 ⟨hpart, hfaults, id⟩
    exact streamAlike_iff.1 (nextsRelated_runEvent hs hu (hall.enabled hnow he) hall (hall.fireEvent he) t v ht hv)
  · intro i hi hpart hport ht hv
    have hall : SerialAlike (s.results = u.results) s u := serialAlike_iff.2 ⟨hpart, hfaults, id⟩
    exact serialAlike_iff.1 (hall.exec hport hi t v ht hv)
  · intro i hi hpart hport hnow htimeout ht hv
    have hall : StreamAlike (s.results = u.results) s u := streamAlike_iff.2 ⟨hpart, hfaults, id⟩
    exact streamAlike_iff.1 (hall.exec hport hnow htimeout hi t v ht hv)

end Sys2Proof.Machine
end

section
/-! PROOF. Decoding inverts encoding: the three tables of R114 do not overlap, so a word in one of them decodes by it, and a
function-code byte has the class of the row of R132 that matches it. -/

namespace Sys2Proof.Machine

/-! ### Command words -/

/-- A command word as a number (R110). -/
theorem commandWord_toNat (op arg : Byte) : (commandWord op arg).toNat = arg.toNat * 256 + op.toNat := by
  have hop := op.isLt
  have harg := arg.isLt
  rw [commandWord, BitVec.toNat_append, BitVec.toNat_append, ← Nat.shiftLeft_add_eq_or_of_lt hop,
    ← Nat.shiftLeft_add_eq_or_of_lt harg]
  simp [Nat.shiftLeft_eq]

theorem commandWord_op (op arg : Byte) : (commandWord op arg).extractLsb' 0 8 = op := by
  have hop := op.isLt
  apply BitVec.eq_of_toNat_eq
  rw [BitVec.extractLsb'_toNat, commandWord_toNat, Nat.shiftRight_zero]
  omega

theorem commandWord_arg (op arg : Byte) : (commandWord op arg).extractLsb' 8 8 = arg := by
  have hop := op.isLt
  have harg := arg.isLt
  apply BitVec.eq_of_toNat_eq
  rw [BitVec.extractLsb'_toNat, commandWord_toNat, Nat.shiftRight_eq_div_pow]
  omega

theorem commandWord_rsv (op arg : Byte) : (commandWord op arg).extractLsb' 16 16 = 0 := by
  have hop := op.isLt
  have harg := arg.isLt
  apply BitVec.eq_of_toNat_eq
  rw [BitVec.extractLsb'_toNat, commandWord_toNat, Nat.shiftRight_eq_div_pow]
  change _ = 0
  omega

/-- An operation that belongs to no variant takes no argument. -/
theorem argCommand_none_of_fixedCommand {op : Nat} {i : Instr} (h : fixedCommand op = some i) (arg : Byte) :
    argCommand op arg = none := by
  unfold fixedCommand at h
  split at h
  case h_18 => contradiction
  all_goals rfl

/-- An operation of a variant group stands in no other table of R114. -/
theorem tables_none_of_variantCommand {op : Nat} {i : Instr} (h : variantCommand (op / 16) (op % 16) = some i) (arg : Byte) :
    argCommand op arg = none ∧ fixedCommand op = none := by
  constructor
  · unfold argCommand
    split
    case h_5 => rfl
    all_goals contradiction
  · unfold fixedCommand
    split
    case h_18 => rfl
    all_goals contradiction

/-- The instruction that the tables of R114 give an operation and an argument. -/
def InTable (op : Nat) (arg : Byte) (i : Instr) : Prop :=
  argCommand op arg = some i ∨
    (arg = 0 ∧ (fixedCommand op = some i ∨ variantCommand (op / 16) (op % 16) = some i))

/-- The converse of `decodeCommand_cases`: with no two tables overlapping, each decides alone (R119). -/
theorem decodeCommand_of_inTable {w : U32} {i : Instr} (hrsv : w.extractLsb' 16 16 = 0)
    (h : InTable (w.extractLsb' 0 8).toNat (w.extractLsb' 8 8) i) : decodeCommand w = .ok i := by
  rw [decodeCommand, if_neg (not_not.2 hrsv)]
  obtain hi | ⟨harg, hi | hi⟩ := h
  · simp only [hi]
  · simp only [argCommand_none_of_fixedCommand hi, hi, Option.some_or, if_pos harg]
  · obtain ⟨hnoArg, hnotFixed⟩ := tables_none_of_variantCommand hi (w.extractLsb' 8 8)
    simp only [hnoArg, hnotFixed, hi, Option.none_or, if_pos harg]

/-- A word is decoded exactly when its reserved bits are clear and a table of R114 holds it. -/
theorem decodeCommand_iff {w : U32} {i : Instr} :
    decodeCommand w = .ok i ↔ w.extractLsb' 16 16 = 0 ∧ InTable (w.extractLsb' 0 8).toNat (w.extractLsb' 8 8) i :=
  ⟨decodeCommand_cases, fun ⟨hrsv, h⟩ => decodeCommand_of_inTable hrsv h⟩

theorem decodeTableWord_command (w : U32) : decodeTableWord 32 w.toNat = (decodeCommand w).toOption := by
  simp [decodeTableWord, w.isLt]

theorem decodeTableWord_encodedCommand {op arg : Byte} {i : Instr} (h : InTable op.toNat arg i) :
    decodeTableWord (encodedCommand op arg).nbits (encodedCommand op arg).word = some i := by
  have hdec : decodeCommand (commandWord op arg) = .ok i :=
    decodeCommand_of_inTable (commandWord_rsv op arg) (by rwa [commandWord_op, commandWord_arg])
  rw [encodedCommand, decodeTableWord_command, hdec]
  rfl

/-! ### Function-code bytes -/

theorem decodeTableWord_encodedFc (fc : Byte) :
    decodeTableWord (encodedFc fc).nbits (encodedFc fc).word = some (decodeRespFc fc) := by
  simp [decodeTableWord, encodedFc, fc.isLt]

theorem decodeRespFc_of_exception {fc : Byte} (h : isExceptionFc fc = true) : decodeRespFc fc = .rtuRespException fc :=
  if_pos h

/-- The last row of R132 takes the bytes that no earlier row matches. -/
theorem decodeRespFc_of_not_dispatched {fc : Byte} (h : isDispatchedFc fc = false) :
    decodeRespFc fc = .rtuRespUnsupported fc := by
  simp only [isDispatchedFc, Config.rtuReadFcs, Config.rtuWriteFcs, Bool.or_eq_false_iff, List.contains_eq_mem,
    decide_eq_false_iff_not, List.mem_cons, List.not_mem_nil, or_false, not_or] at h
  simp only [decodeRespFc, h, Bool.false_eq_true, if_false]

/-- Settles O7: each command stands in one of the three tables under its own operation, and each response class is the one
of its byte. -/
theorem decodingInvertsEncoding : Obligations.DecodingInvertsEncoding := by
  intro i hwf
  cases i
  case rtuWriteRequest | tcpWriteRequest | csrRead | csrWrite => exact decodeTableWord_encodedCommand (.inl rfl)
  case rtuRespException fc =>
    exact (decodeTableWord_encodedFc fc).trans (congrArg some (decodeRespFc_of_exception hwf))
  case rtuRespUnsupported fc =>
    exact (decodeTableWord_encodedFc fc).trans (congrArg some (decodeRespFc_of_not_dispatched (by simpa [Instr.wf] using hwf)))
  case rtuRespReadFc01 | rtuRespReadFc02 | rtuRespReadFc03 | rtuRespReadFc04 | rtuRespWriteFc05 | rtuRespWriteFc06 |
      rtuRespWriteFc0F | rtuRespWriteFc10 =>
    exact decodeTableWord_encodedFc _
  case crcInit | crcWrite | crcRead | crcChecksum | fbReset | fbAppendBytes | fbAppendU16 | fbFinalizeRaw | fbFinalizeCrc |
      decodeResponse | bytesToBools | boolsToBytes | regsToU16 | regsToF32 | pduFc | rtuClose | tcpClose =>
    exact decodeTableWord_encodedCommand (.inr ⟨rfl, .inl rfl⟩)
  all_goals exact decodeTableWord_encodedCommand (.inr ⟨rfl, .inr rfl⟩)

end Sys2Proof.Machine
end

section
/-! PROOF. Only its encoding decodes to an instruction (R119), a word is decoded exactly when it is legal (R117), and what the
step of a ready host does with either kind of word. -/

namespace Sys2Proof.Machine

/-! ### What decodes -/

/-- Settles O5: each word written out is the encoding of its instruction, which decodes to it. -/
theorem writtenWordsDecodeToTheirInstructions : Obligations.WrittenWordsDecodeToTheirInstructions :=
  have decodes := decodingInvertsEncoding
  ⟨decodes .crcInit rfl, decodes .fbAppendU16 rfl, decodes .newRrq rfl, decodes .marshalWmrq rfl,
    decodes .unmarshalWmbq rfl, decodes .decodeResponse rfl, decodes (.rtuWriteRequest 0x11) rfl, decodes .tcpClose rfl,
    decodes (.csrRead 8) rfl, decodes .reinterpretRaw rfl, decodes (.rtuRespException 0x83) rfl,
    decodes .rtuRespWriteFc0F rfl, decodes (.rtuRespUnsupported 0x2B) rfl⟩

/-- The class of a byte is well formed and encoded by that byte, whichever row of R132 gives it. -/
theorem decodeRespFc_spec (fc : Byte) : (decodeRespFc fc).wf = true ∧ encode (decodeRespFc fc) = encodedFc fc := by
  cases hdispatched : isDispatchedFc fc
  · rw [decodeRespFc_of_not_dispatched hdispatched]
    exact ⟨by simp [Instr.wf, hdispatched], rfl⟩
  · cases hexc : isExceptionFc fc
    · have hmem : fc ∈ Config.rtuReadFcs ∨ fc ∈ Config.rtuWriteFcs := by simpa [isDispatchedFc, hexc] using hdispatched
      simp only [Config.rtuReadFcs, Config.rtuWriteFcs, List.mem_cons, List.not_mem_nil, or_false] at hmem
      obtain (rfl | rfl | rfl | rfl) | (rfl | rfl | rfl | rfl) := hmem <;> exact ⟨rfl, rfl⟩
    · rw [decodeRespFc_of_exception hexc]
      exact ⟨hexc, rfl⟩

/-- Only response classes have a condition on their field. -/
theorem wf_of_not_responseClass {i : Instr} (h : isResponseClass i = false) : i.wf = true := by
  cases i
  case rtuRespException | rtuRespUnsupported => contradiction
  all_goals rfl

/-- Settles O8: a byte decodes to its class and a command word to the command it encodes. -/
theorem encodingInvertsDecoding : Obligations.EncodingInvertsDecoding := by
  rintro nbits w i (rfl | rfl) h
  · obtain ⟨hw, rfl⟩ : w < 2 ^ 8 ∧ decodeRespFc (BitVec.ofNat 8 w) = i := by simpa [decodeTableWord] using h
    obtain ⟨hwf, henc⟩ := decodeRespFc_spec (BitVec.ofNat 8 w)
    exact ⟨hwf, henc.trans (by rw [encodedFc, BitVec.toNat_ofNat, Nat.mod_eq_of_lt hw])⟩
  · obtain ⟨hw, hdec⟩ : w < 2 ^ 32 ∧ (decodeCommand (BitVec.ofNat 32 w)).toOption = some i := by
      simpa [decodeTableWord] using h
    have hok : decodeCommand (BitVec.ofNat 32 w) = .ok i := by
      cases hcase : decodeCommand (BitVec.ofNat 32 w) <;> rw [hcase] at hdec <;> cases hdec
      rfl
    exact ⟨wf_of_not_responseClass (decodeCommand_command hok),
      (encode_of_decodeCommand hok).trans (by rw [BitVec.toNat_ofNat, Nat.mod_eq_of_lt hw])⟩

/-! ### Legal words -/

/-- There are fourteen variants (R116). -/
theorem lt_of_variantOf {n : Nat} (h : (variantOf n).isSome = true) : n < 14 := by
  unfold variantOf at h
  split at h
  case h_15 => contradiction
  all_goals decide

/-- Each of the four variant groups holds an operation for each variant (R114). -/
theorem mem_legalOps_of_variantCommand {op : Nat} (h : (variantCommand (op / 16) (op % 16)).isSome = true) :
    op ∈ legalOps := by
  have hgroups : ∀ group ∈ [0x2, 0x3, 0x4, 0x9], ∀ index < 14, 16 * group + index ∈ legalOps := by decide
  have hsplit : 16 * (op / 16) + op % 16 = op := Nat.div_add_mod op 16
  unfold variantCommand at h
  rw [← hsplit]
  split at h
  case h_5 => contradiction
  all_goals
    rename_i hgroup
    rw [Option.isSome_map] at h
    rw [hgroup]
    exact hgroups _ (by decide) _ (lt_of_variantOf h)

theorem mem_legalOps_of_fixedCommand {op : Nat} (h : (fixedCommand op).isSome = true) : op ∈ legalOps := by
  unfold fixedCommand at h
  split at h
  case h_18 => contradiction
  all_goals decide

/-- The operations of the table of R114 are those of its three parts. -/
theorem mem_legalOps_iff (op : Nat) : op ∈ legalOps ↔
    op ∈ argOps ∨ (fixedCommand op).isSome = true ∨ (variantCommand (op / 16) (op % 16)).isSome = true := by
  have hlisted : ∀ op ∈ legalOps,
      op ∈ argOps ∨ (fixedCommand op).isSome = true ∨ (variantCommand (op / 16) (op % 16)).isSome = true := by decide
  have harg : ∀ op ∈ argOps, op ∈ legalOps := by decide
  exact ⟨hlisted op, fun h => h.elim (harg op) fun h =>
    h.elim mem_legalOps_of_fixedCommand mem_legalOps_of_variantCommand⟩

theorem isSome_argCommand_iff (op : Nat) (arg : Byte) : (argCommand op arg).isSome = true ↔ op ∈ argOps := by
  unfold argCommand argOps
  split <;> simp_all

/-- A word's operation and argument stand in a table of R114 exactly when both are as R117 asks. -/
theorem exists_inTable_iff (op : Nat) (arg : Byte) :
    (∃ i, InTable op arg i) ↔ op ∈ legalOps ∧ (arg = 0 ∨ op ∈ argOps) := by
  simp only [InTable, exists_or, exists_and_left, ← Option.isSome_iff_exists, isSome_argCommand_iff, mem_legalOps_iff]
  tauto

theorem legalWord_iff (w : U32) : LegalWord w ↔ ∃ i, decodeCommand w = .ok i := by
  have hw := w.isLt
  have hrsv : w.extractLsb' 16 16 = 0 ↔ w.toNat / 65536 = 0 := by
    rw [← BitVec.toNat_inj, BitVec.extractLsb'_toNat, Nat.shiftRight_eq_div_pow]
    change _ = 0 ↔ _
    omega
  have harg : w.extractLsb' 8 8 = 0 ↔ w.toNat / 256 % 256 = 0 := by
    rw [← BitVec.toNat_inj, BitVec.extractLsb'_toNat, Nat.shiftRight_eq_div_pow]
    rfl
  have hop : (w.extractLsb' 0 8).toNat = w.toNat % 256 := BitVec.extractLsb'_toNat ..
  simp only [decodeCommand_iff, exists_and_left, hop, exists_inTable_iff, hrsv, harg, LegalWord]
  tauto

/-! ### The step of a ready host -/

/-- With the script at hand a step is the scripted event. -/
theorem step_of_script {s : State} {e : Event} {rest : List Event} (h : s.script = e :: rest) :
    step s = runEvent e { s with script := rest } := (stepTakesTheNextEvent s).1 e rest h

/-- A ready host's command with valid operands is presented at the port, decoded and executed (R61, R110). -/
theorem runEvent_issue {s : State} {h : Nat} {ops : Operands} (hs : Healthy s) (hready : hostReady h s = true)
    (hops : ops.valid = true) (w : U32) (draw : Nat) :
    runEvent (.issue h w ops draw) s = issueWord w (s.present h ops draw) :=
  runEvent_fires hs (by simp [eventEnabled, hready, hops])

/-- Settles O3: the event is the head of the script, it is enabled, and its word decodes. -/
theorem stepRunsTheDecodedCommand : Obligations.StepRunsTheDecodedCommand := by
  intro s h w ops draw rest i hscript hs hready hops hdec
  calc step s = runEvent (.issue h w ops draw) { s with script := rest } := step_of_script hscript
    _ = issueWord w (State.present h ops draw { s with script := rest }) :=
      runEvent_issue (s := { s with script := rest }) hs hready hops w draw
    _ = exec i { s with script := rest, port := ⟨h, ops, draw⟩ } := by rw [issueWord, hdec]; rfl

/-- Settles O6: the tables of R114 hold exactly the legal words, and a word that they do not hold is answered as R117 says. -/
theorem illegalWordsChangeNoState : Obligations.IllegalWordsChangeNoState := by
  refine fun w => ⟨legalWord_iff w, fun s h ops draw hillegal hs hready hops => ?_⟩
  rw [runEvent_issue hs hready hops, issueWord]
  split
  next i hdec => exact absurd ((legalWord_iff w).2 ⟨i, hdec⟩) hillegal
  next => rfl

end Sys2Proof.Machine
end

section
/-! PROOF. The pseudo-commands build the frames of the transports (R130, R131, R141). -/

namespace Sys2Proof.Machine

/-! ### A host's uninterrupted sequence of commands -/

/-- The state in which the next command of a sequence is executed: its result consumed, its operands at the port (R61, R110). -/
def sequenceStart (h : Nat) (ops : Operands) (s : State) : State := { s with results := s.results.del h }.present h ops 0

theorem runSequence_cons {h : Nat} {i : Instr} {ops : Operands} {s t : State} (hi : exec i (sequenceStart h ops s) = .next t)
    (rest : List (Instr × Operands)) : runSequence h ((i, ops) :: rest) s = runSequence h rest t := by
  rw [sequenceStart] at hi
  rw [runSequence, hi]

/-- `MARSHAL.<V>` of a PDU with its own tag answers the wire bytes (R118, R224). -/
theorem exec_marshalOf {v : Variant} {s : State} (htag : s.ops.pdu.variant = v) :
    exec (Instr.marshalOf v) s = .next (s.answer (Result.okData s.ops.pdu.marshal)) := by
  have harm : exec (Instr.marshalOf v) s = answerMarshal v s := by cases v <;> rfl
  rw [harm, answerMarshal, if_pos htag]

section FrameBuilder

/-! What each command of a frame's sequence does to the Frame Builder's buffer (R180 to R184). -/

variable (h : Nat) (s : State) (rest : List (Instr × Operands))

/-- The first command of a frame's sequence only answers the PDU's wire bytes (R141, R224). -/
theorem runSequence_marshalOf (p : PDU) : ∃ t, t.fbBuf = s.fbBuf ∧
    runSequence h ((Instr.marshalOf p.variant, { pdu := p }) :: rest) s = runSequence h rest t :=
  ⟨_, by rfl, runSequence_cons (exec_marshalOf (s := sequenceStart h { pdu := p } s) rfl) rest⟩

theorem runSequence_fbReset : ∃ t, t.fbBuf = [] ∧
    runSequence h ((Instr.fbReset, {}) :: rest) s = runSequence h rest t :=
  ⟨_, rfl, runSequence_cons (t := { sequenceStart h {} s with fbBuf := [] }.answer Result.done) rfl rest⟩

theorem runSequence_fbAppendBytes (data : Bytes) : ∃ t, t.fbBuf = s.fbBuf ++ data ∧
    runSequence h ((Instr.fbAppendBytes, { data := data }) :: rest) s = runSequence h rest t :=
  ⟨_, rfl, runSequence_cons
    (t := { sequenceStart h { data := data } s with fbBuf := s.fbBuf ++ data }.answer Result.done) rfl rest⟩

theorem runSequence_fbAppendU16 (a b c : U16) : ∃ t, t.fbBuf = s.fbBuf ++ be16 a ++ be16 b ++ be16 c ∧
    runSequence h ((Instr.fbAppendU16, { words := [a, b, c] }) :: rest) s = runSequence h rest t :=
  ⟨_, rfl, runSequence_cons (t := { sequenceStart h { words := [a, b, c] } s with
    fbBuf := s.fbBuf ++ be16 a ++ be16 b ++ be16 c }.answer Result.done) rfl rest⟩

theorem runSequence_fbFinalizeRaw : ∃ t, runSequence h [(Instr.fbFinalizeRaw, {})] s = .next t ∧
    t.results.get h = some (Result.okData s.fbBuf) :=
  ⟨(sequenceStart h {} s).answer (Result.okData s.fbBuf), runSequence_cons rfl [], Assoc.get_put_same ..⟩

theorem runSequence_fbFinalizeCrc : ∃ t, runSequence h [(Instr.fbFinalizeCrc, {})] s = .next t ∧
    t.results.get h = some (Result.okData (s.fbBuf ++ le16 (crc16 s.fbBuf))) :=
  ⟨(sequenceStart h {} s).answer (Result.okData (s.fbBuf ++ le16 (crc16 s.fbBuf))), runSequence_cons rfl [],
    Assoc.get_put_same ..⟩

end FrameBuilder

/-- Settles O14: from `FB_RESET` on, the Frame Builder's buffer is the part of the frame appended so far. -/
theorem pseudoCommandsBuildTheTransportFrames : Obligations.PseudoCommandsBuildTheTransportFrames := by
  refine fun h s p => ⟨fun a => ?_, fun tid u hlen => ?_⟩
  · rw [Pseudo.expand]
    obtain ⟨s₁, -, hrun⟩ := runSequence_marshalOf h s _ p
    rw [hrun]
    obtain ⟨s₂, hreset, hrun⟩ := runSequence_fbReset h s₁ _
    rw [hrun]
    obtain ⟨s₃, haddr, hrun⟩ := runSequence_fbAppendBytes h s₂ _ [a]
    rw [hrun]
    obtain ⟨s₄, hpdu, hrun⟩ := runSequence_fbAppendBytes h s₃ _ p.marshal
    rw [hrun]
    have hbuf : s₄.fbBuf = a :: p.marshal := by rw [hpdu, haddr, hreset]; rfl
    have hfinal := runSequence_fbFinalizeCrc h s₄
    rwa [hbuf] at hfinal
  · have hlength : mbapLength p.marshal.length = BitVec.ofNat 16 (1 + p.marshal.length) := if_pos hlen
    rw [Pseudo.expand]
    obtain ⟨s₁, -, hrun⟩ := runSequence_marshalOf h s _ p
    rw [hrun]
    obtain ⟨s₂, hreset, hrun⟩ := runSequence_fbReset h s₁ _
    rw [hrun]
    obtain ⟨s₃, hhead, hrun⟩ := runSequence_fbAppendU16 h s₂ _ tid 0 (mbapLength p.marshal.length)
    rw [hrun]
    obtain ⟨s₄, hunit, hrun⟩ := runSequence_fbAppendBytes h s₃ _ [u]
    rw [hrun]
    obtain ⟨s₅, hpdu, hrun⟩ := runSequence_fbAppendBytes h s₄ _ p.marshal
    rw [hrun]
    have hbuf : s₅.fbBuf = mbapFrame tid u p.marshal := by rw [hpdu, hunit, hhead, hreset, hlength]; rfl
    have hfinal := runSequence_fbFinalizeRaw h s₅
    rwa [hbuf] at hfinal

end Sys2Proof.Machine
end

section
/-! PROOF. What the response class of a function-code byte does, class by class (R132, R367). -/

namespace Sys2Proof.Machine

/-- Bit 7 of a byte is set in its upper half (R123). -/
theorem isExceptionFc_iff (fc : Byte) : isExceptionFc fc = true ↔ 0x80 ≤ fc.toNat := by
  have hmsb : isExceptionFc fc = fc.msb := (BitVec.msb_eq_getLsbD_last fc).symm
  rw [hmsb, BitVec.msb_eq_decide, decide_eq_true_iff]

theorem mem_rtuReadFcs_iff (fc : Byte) : fc ∈ Config.rtuReadFcs ↔ fc.toNat ∈ [0x01, 0x02, 0x03, 0x04] := by
  simp [Config.rtuReadFcs, ← BitVec.toNat_inj]

theorem mem_rtuWriteFcs_iff (fc : Byte) : fc ∈ Config.rtuWriteFcs ↔ fc.toNat ∈ [0x05, 0x06, 0x0F, 0x10] := by
  simp [Config.rtuWriteFcs, ← BitVec.toNat_inj]

variable {fc : Byte} (s : State)

theorem exec_decodeRespFc_exception (h : isExceptionFc fc = true) :
    exec (decodeRespFc fc) s = .next (awaitResponse .body 5 s) := by
  rw [decodeRespFc_of_exception h]
  rfl

theorem exec_readClass {i : Instr}
    (h : i ∈ [Instr.rtuRespReadFc01, .rtuRespReadFc02, .rtuRespReadFc03, .rtuRespReadFc04]) :
    exec i s = .next (awaitResponse .len 3 s) := by
  simp only [List.mem_cons, List.not_mem_nil, or_false] at h
  obtain rfl | rfl | rfl | rfl := h <;> rfl

theorem exec_writeClass {i : Instr}
    (h : i ∈ [Instr.rtuRespWriteFc05, .rtuRespWriteFc06, .rtuRespWriteFc0F, .rtuRespWriteFc10]) :
    exec i s = .next (awaitResponse .body 8 s) := by
  simp only [List.mem_cons, List.not_mem_nil, or_false] at h
  obtain rfl | rfl | rfl | rfl := h <;> rfl

theorem exec_decodeRespFc_read (h : fc ∈ Config.rtuReadFcs) :
    exec (decodeRespFc fc) s = .next (awaitResponse .len 3 s) :=
  exec_readClass s ((by decide : ∀ fc ∈ Config.rtuReadFcs, decodeRespFc fc ∈ _) fc h)

theorem exec_decodeRespFc_write (h : fc ∈ Config.rtuWriteFcs) :
    exec (decodeRespFc fc) s = .next (awaitResponse .body 8 s) :=
  exec_writeClass s ((by decide : ∀ fc ∈ Config.rtuWriteFcs, decodeRespFc fc ∈ _) fc h)

/-- Settles O38: each class by its own row, and the class of a byte by the sets of R132, tested in their order. -/
theorem responseClassesSetTheFrameLength : Obligations.ResponseClassesSetTheFrameLength := by
  intro s h fc hhost unsupported
  have hunsupported : exec (.rtuRespUnsupported fc) s = .next unsupported :=
    congrArg Host.Outcome.next (rtuFinish_of_host hhost _)
  refine ⟨fun _ => exec_readClass s, fun _ => exec_writeClass s, rfl, hunsupported, ?_⟩
  simp only [ge_iff_le, ← isExceptionFc_iff, ← mem_rtuReadFcs_iff, ← mem_rtuWriteFcs_iff]
  split
  next hexc => exact exec_decodeRespFc_exception s hexc
  next hexc =>
    split
    next hread => exact exec_decodeRespFc_read s hread
    next hread =>
      split
      next hwrite => exact exec_decodeRespFc_write s hwrite
      next hwrite =>
        have hdispatched : isDispatchedFc fc = false := by simp [isDispatchedFc, hexc, hread, hwrite]
        rw [decodeRespFc_of_not_dispatched hdispatched, hunsupported]

end Sys2Proof.Machine
end

section
/-! PROOF. Runs of one agent's read steps (R366, R414, R416), and the serial framer's receipt of a whole response frame (R132,
R366, R367, R370). -/

namespace Sys2Proof.Machine

/-! ### Runs -/

theorem run_succ_of_step {M : Host.Core} {s t : M.State} (h : M.step s = .next t) (k : Nat) :
    M.run (k + 1) s = M.run k t := by
  rw [Host.Core.run, h]

theorem run_succ {s t : State} (h : step s = .next t) (k : Nat) :
    Host.Core.run Sys2Proof.core (k + 1) s = Host.Core.run Sys2Proof.core k t :=
  run_succ_of_step (M := Sys2Proof.core) h k

/-- A machine that buffers one byte a step while its buffer is shorter than `n` with it buffers any number of bytes: `M k buf
input` is its state with `k` steps to go, `buf` buffered and `input` queued. -/
theorem run_buffers {M : Nat → Bytes → Bytes → State} {n : Nat}
    (hstep : ∀ k buf b input, buf.length + 1 < n → step (M (k + 1) buf (b :: input)) = .next (M k (buf ++ [b]) input))
    (k : Nat) {buf : Bytes} (taken input : Bytes) (hfits : buf.length + taken.length < n) :
    Host.Core.run Sys2Proof.core (k + taken.length) (M (k + taken.length) buf (taken ++ input)) =
      Host.Core.run Sys2Proof.core k (M k (buf ++ taken) input) := by
  induction taken generalizing buf with
  | nil => rw [List.append_nil]; rfl
  | cons b taken ih =>
    simp only [List.length_cons] at hfits
    have hfirst : step (M (k + taken.length + 1) buf (b :: (taken ++ input))) =
        .next (M (k + taken.length) (buf ++ [b]) (taken ++ input)) := hstep _ _ _ _ (by omega)
    have hrest := ih (buf := buf ++ [b]) (by rw [List.length_append, List.length_singleton]; omega)
    rw [List.append_assoc] at hrest
    exact (run_succ hfirst _).trans hrest

/-! ### The framer's read steps -/

/-- The framer in phase `p` with `k` scripted read steps to go, `rx` received, `input` queued and `need` bytes to reach. -/
def framerState (s : State) (more : List Event) (p : RtuPhase) (need k : Nat) (rx input : Bytes) : State :=
  { s with
    script := List.replicate k .rtuRead ++ more, rtuPhase := p, rtuNeed := need, rtuRx := rx, serIn := input }

section Framer

variable {s : State} (hs : Healthy s) (hdeadline : s.now < s.rtuDeadline) {more : List Event} {p : RtuPhase}
  (hreading : p.reading = true) {need : Nat}

include hs hdeadline hreading

/-- One scripted read step (R366). -/
theorem step_framerState (k : Nat) (rx : Bytes) (b : Byte) (input : Bytes) :
    step (framerState s more p need (k + 1) rx (b :: input)) =
      if rx.length + 1 = need then rtuPhaseDone (framerState s more p need k (rx ++ [b]) input)
      else .next (framerState s more p need k (rx ++ [b]) input) := by
  have henabled : eventEnabled .rtuRead (framerState s more p need k rx (b :: input)) = true := by
    simp [eventEnabled, framerState, hreading, hdeadline]
  have hread : step (framerState s more p need (k + 1) rx (b :: input)) =
      rtuRead (framerState s more p need k rx (b :: input)) :=
    (step_of_script rfl).trans (runEvent_fires (s := framerState s more p need k rx (b :: input)) hs henabled)
  have hlength : rx.length + 1 = (rx ++ [b]).length := by rw [List.length_append, List.length_singleton]
  rw [hread, hlength]
  rfl

/-- The framer reads until its phase is complete and then acts as the phase says (R366, R367). -/
theorem run_framerState {rx taken : Bytes} {b : Byte} {input : Bytes} {k : Nat} {t : State}
    (hneed : rx.length + taken.length + 1 = need)
    (hdone : rtuPhaseDone (framerState s more p need k (rx ++ taken ++ [b]) input) = .next t) :
    Host.Core.run Sys2Proof.core (k + 1 + taken.length)
        (framerState s more p need (k + 1 + taken.length) rx (taken ++ b :: input)) =
      Host.Core.run Sys2Proof.core k t := by
  rw [run_buffers (M := framerState s more p need) (n := need) ?_ (k + 1) taken (b :: input) (by omega)]
  · refine run_succ ?_ k
    rw [step_framerState hs hdeadline hreading, if_pos (by rw [List.length_append]; exact hneed), hdone]
  · intro k buf b input hlt
    rw [step_framerState hs hdeadline hreading, if_neg (Nat.ne_of_lt hlt)]

end Framer

/-! ### The framer's completion actions on a frame -/

/-- The completion of a good frame returns its RawPDU (R370). -/
theorem rtuBodyDone_rtuFrame {s : State} {h : Nat} {a b0 b1 : Byte} {rest : Bytes} (hhost : s.rtuHost = some h)
    (hrx : s.rtuRx = rtuFrame a (b0 :: b1 :: rest)) :
    rtuBodyDone s = { s with
      rtuPhase := .idle, results := s.results.put h (Result.okPdu (.raw b0 b1 rest)) } := by
  have hsplit : s.rtuRx.length - 2 = (a :: b0 :: b1 :: rest).length := by rw [hrx, rtuFrame]; simp [le16]
  have hbody : s.rtuRx.take (s.rtuRx.length - 2) = a :: b0 :: b1 :: rest := by rw [hsplit, hrx, rtuFrame, List.take_left]
  have hcrc : s.rtuRx.drop (s.rtuRx.length - 2) = le16 (crc16 (a :: b0 :: b1 :: rest)) := by
    rw [hsplit, hrx, rtuFrame, List.drop_left]
  simp only [rtuBodyDone, hbody, hcrc, le16, rd16_be16]
  rw [if_neg (not_not.2 rfl)]
  exact rtuFinish_of_host hhost _

section Receipt

variable {s : State} (hs : Healthy s) (hdeadline : s.now < s.rtuDeadline) (more : List Event)

include hs hdeadline

/-- A header with the right address is handed to the class of its function code (R366, R367). -/
theorem run_framerState_header {fc : Byte} {p : RtuPhase} {need : Nat}
    (hclass : ∀ u, exec (decodeRespFc fc) u = .next (awaitResponse p need u)) (k : Nat) (input : Bytes) :
    Host.Core.run Sys2Proof.core (k + 2) (framerState s more .hdr 2 (k + 2) [] (s.rtuAddr :: fc :: input)) =
      Host.Core.run Sys2Proof.core k (framerState s more p need k [s.rtuAddr, fc] input) := by
  refine run_framerState hs hdeadline rfl (taken := [s.rtuAddr]) rfl ?_
  have hdone : rtuPhaseDone (framerState s more .hdr 2 k [s.rtuAddr, fc] input) =
      exec (decodeRespFc fc) (framerState s more .hdr 2 k [s.rtuAddr, fc] input) := if_neg (not_not.2 rfl)
  exact hdone.trans (hclass _)

/-- The length byte of a read response sets the size of its frame (R367). -/
theorem run_framerState_length (a fc n : Byte) (k : Nat) (input : Bytes) :
    Host.Core.run Sys2Proof.core (k + 1) (framerState s more .len 3 (k + 1) [a, fc] (n :: input)) =
      Host.Core.run Sys2Proof.core k (framerState s more .body (3 + n.toNat + 2) k [a, fc, n] input) :=
  run_framerState hs hdeadline rfl (taken := []) rfl rfl

/-- The rest of a good frame is read to its end and its PDU returned (R370). -/
theorem run_framerState_body {h need : Nat} {a b0 b1 : Byte} {rest rx todo : Bytes} (input : Bytes)
    (hhost : s.rtuHost = some h) (hsplit : rx ++ todo = a :: b0 :: b1 :: rest)
    (hneed : need = (b0 :: b1 :: rest).length + 3) :
    Host.Core.run Sys2Proof.core (todo.length + 2)
        (framerState s more .body need (todo.length + 2) rx
          (todo ++ le16 (crc16 (a :: b0 :: b1 :: rest)) ++ input)) = .next { s with
      script := more
      serIn := input
      rtuRx := rtuFrame a (b0 :: b1 :: rest)
      rtuNeed := (b0 :: b1 :: rest).length + 3
      rtuPhase := .idle
      results := s.results.put h (Result.okPdu (.raw b0 b1 rest)) } := by
  obtain ⟨lo, hi, hcrc⟩ : ∃ lo hi, le16 (crc16 (a :: b0 :: b1 :: rest)) = [lo, hi] := ⟨_, _, rfl⟩
  have hframe : rx ++ (todo ++ [lo]) ++ [hi] = rtuFrame a (b0 :: b1 :: rest) := by
    rw [rtuFrame, hcrc, ← hsplit]; simp
  have hlength : rx.length + (todo ++ [lo]).length + 1 = need := by
    have hsizes := congrArg List.length hsplit
    simp only [List.length_append, List.length_cons, List.length_nil] at hsizes hneed ⊢
    omega
  have hinput : todo ++ [lo, hi] ++ input = (todo ++ [lo]) ++ hi :: input := by simp
  have hk : todo.length + 2 = 0 + 1 + (todo ++ [lo]).length := by rw [List.length_append, List.length_singleton]; omega
  rw [hcrc, hinput, hk]
  refine (run_framerState hs hdeadline rfl hlength ?_).trans rfl
  rw [hframe, hneed]
  exact congrArg Host.Outcome.next (rtuBodyDone_rtuFrame hhost rfl)

end Receipt

theorem framerState_self {s : State} {k : Nat} {more : List Event} (h : s.script = List.replicate k .rtuRead ++ more) :
    s = framerState s more s.rtuPhase s.rtuNeed k s.rtuRx s.serIn := by
  rw [framerState, ← h]

/-- Settles O44: the header's class sets the frame's length to that of the queued frame, at once or by the length byte. -/
theorem rtuReceivesEveryWellSizedResponse : Obligations.RtuReceivesEveryWellSizedResponse := by
  intro s h b0 b1 rest bytes more p hsized hs hphase hneed hrx hhost hdeadline hin hscript
  have hqueued : s.serIn = s.rtuAddr :: b0 :: b1 :: (rest ++ le16 (crc16 (s.rtuAddr :: p)) ++ bytes) := by rw [hin]; rfl
  have hstart := framerState_self hscript
  rw [hphase, hneed, hrx, hqueued] at hstart
  refine (congrArg (Host.Core.run Sys2Proof.core _) hstart).trans ?_
  obtain ⟨fc, b, payload, hp, hclass⟩ := hsized
  cases (show b0 :: b1 :: rest = fc :: b :: payload from hp)
  obtain ⟨hexc, hrest⟩ | ⟨-, hread, hlen⟩ | ⟨-, hwrite, hlen⟩ := hclass
  · refine (run_framerState_header hs hdeadline more (exec_decodeRespFc_exception · hexc) _ _).trans ?_
    exact run_framerState_body hs hdeadline more (todo := b1 :: rest) bytes hhost rfl (by rw [hrest]; rfl)
  · refine (run_framerState_header hs hdeadline more (exec_decodeRespFc_read · hread) _ _).trans ?_
    refine (run_framerState_length hs hdeadline more s.rtuAddr b0 b1 _ _).trans ?_
    exact run_framerState_body hs hdeadline more bytes hhost rfl (by simp only [List.length_cons, hlen]; omega)
  · refine (run_framerState_header hs hdeadline more (exec_decodeRespFc_write · hwrite) _ _).trans ?_
    exact run_framerState_body hs hdeadline more (todo := b1 :: rest) bytes hhost rfl (by simp only [List.length_cons, hlen])

end Sys2Proof.Machine
end

section
/-! PROOF. The stream reader routes a response frame to the waiter registered under its id (R96, R131, R410, R414 to R416). -/

namespace Sys2Proof.Machine

/-- The six bytes before the unit id of the MBAP frame of a PDU of `size` bytes (R131). -/
def mbapHeader (tid : U16) (size : Nat) : Bytes :=
  be16 tid ++ be16 Config.mbapProtocolId ++ be16 (BitVec.ofNat 16 (1 + size))

theorem mbapFrame_eq (tid : U16) (unit : Byte) (p : Bytes) : mbapFrame tid unit p = mbapHeader tid p.length ++ unit :: p :=
  List.append_assoc ..

/-! ### The reader's bytes -/

section Bytes

variable {s : State}

theorem readerByte_buffersHeader {buf : Bytes} {b : Byte} (hst : s.trState = .rdHdr buf) (hfits : buf.length + 1 < 7) :
    readerByte b s = { s with trState := .rdHdr (buf ++ [b]) } := by
  simp only [readerByte, hst]
  exact if_pos (by rwa [List.length_append])

theorem readerByte_buffersBody {tid : U16} {unit b : Byte} {need : Nat} {buf : Bytes}
    (hst : s.trState = .rdBody tid unit need buf) (hfits : buf.length + 1 < need) :
    readerByte b s = { s with trState := .rdBody tid unit need (buf ++ [b]) } := by
  simp only [readerByte, hst]
  exact if_pos (by rwa [List.length_append])

/-- The header of a registered request's response of a byte or more passes every check (R415). -/
theorem readerFields_registered {tid : U16} {record : Pending} {size : Nat} (hget : s.tcpMap.get tid.toNat = some record)
    (hmin : 0 < size) (hmax : size ≤ 0xFFFE) :
    readerFields tid Config.mbapProtocolId (BitVec.ofNat 16 (1 + size)) record.unit s =
      { s with trState := .rdBody tid record.unit size [] } := by
  have hlength : (BitVec.ofNat 16 (1 + size)).toNat = 1 + size := by rw [BitVec.toNat_ofNat]; omega
  simp only [readerFields, hget, hlength, Nat.add_sub_cancel_left, ne_eq, not_true, if_false]
  rw [if_neg (by omega), if_neg (by omega)]

/-- The unit id completes the header, which is then checked field by field (R415). -/
theorem readerByte_completesHeader {tid : U16} {record : Pending} {size : Nat}
    (hst : s.trState = .rdHdr (mbapHeader tid size)) (hget : s.tcpMap.get tid.toNat = some record) (hmin : 0 < size)
    (hmax : size ≤ 0xFFFE) : readerByte record.unit s = { s with trState := .rdBody tid record.unit size [] } := by
  rw [← readerFields_registered hget hmin hmax]
  simp only [readerByte, hst]
  refine (if_neg (Nat.lt_irrefl 7)).trans ?_
  simp [readerHeader, mbapHeader, be16]

/-- The last byte of a body of two bytes or more completes the registered request with the RawPDU (R410, R416). -/
theorem readerByte_completesBody {tid : U16} {unit b b0 b1 : Byte} {buf rest : Bytes} {record : Pending}
    (hst : s.trState = .rdBody tid unit (b0 :: b1 :: rest).length buf) (hbody : buf ++ [b] = b0 :: b1 :: rest)
    (hget : s.tcpMap.get tid.toNat = some record) :
    readerByte b s = { s with
      trState := .rdHdr []
      tcpMap := s.tcpMap.del tid.toNat
      waiters := s.waiters.modify record.waiter (Waiter.signalled (Result.okPdu (.raw b0 b1 rest))) } := by
  have hresult : bodyResult (b0 :: b1 :: rest).length (b0 :: b1 :: rest) = Result.okPdu (.raw b0 b1 rest) :=
    if_neg (by simp)
  simp only [readerByte, hst, hbody]
  refine (if_neg (Nat.lt_irrefl _)).trans ?_
  rw [hresult, complete_of_some hget]

end Bytes

/-! ### The reader's runs -/

/-- The reader in state `st` with `k` scripted read steps to go and `input` queued. -/
def readerState (s : State) (more : List Event) (k : Nat) (st : TrState) (input : Bytes) : State :=
  { s with script := List.replicate k .trRead ++ more, trState := st, tcpIn := input }

theorem readerState_self {s : State} {k : Nat} {more : List Event} (h : s.script = List.replicate k .trRead ++ more) :
    s = readerState s more k s.trState s.tcpIn := by
  rw [readerState, ← h]

section Runs

variable {s : State} (hs : Healthy s) (hopen : s.tcpOpen = true) (more : List Event)

include hs hopen

/-- One scripted read step of a running reader (R89). -/
theorem step_readerState {st : TrState} (hst : st ≠ .rdStop) (k : Nat) (b : Byte) (input : Bytes) :
    step (readerState s more (k + 1) st (b :: input)) = .next (readerByte b (readerState s more k st input)) := by
  have henabled : eventEnabled .trRead (readerState s more k st (b :: input)) = true := by
    simp [eventEnabled, readerState, hst, hopen]
  exact (step_of_script rfl).trans (runEvent_fires (s := readerState s more k st (b :: input)) hs henabled)

/-- The reader buffers all bytes of a header or a body but the last and then acts on the last. -/
theorem run_readerState {st : Bytes → TrState} {n : Nat} (hst : ∀ buf, st buf ≠ .rdStop)
    (hbuffers : ∀ (u : State) buf b, u.trState = st buf → buf.length + 1 < n →
      readerByte b u = { u with trState := st (buf ++ [b]) })
    {taken : Bytes} (hlength : taken.length + 1 = n) (k : Nat) (last : Byte) (input : Bytes) :
    Host.Core.run Sys2Proof.core (k + 1 + taken.length)
        (readerState s more (k + 1 + taken.length) (st []) (taken ++ last :: input)) =
      Host.Core.run Sys2Proof.core k (readerByte last (readerState s more k (st taken) input)) := by
  rw [run_buffers (M := fun k buf => readerState s more k (st buf)) (n := n) ?_ (k + 1) taken (last :: input)
    (by rw [List.length_nil]; omega)]
  · exact run_succ (step_readerState hs hopen more (hst _) k last input) k
  · intro k buf b input hlt
    rw [step_readerState hs hopen more (hst buf), hbuffers _ buf b rfl hlt]
    rfl

/-- The header of a registered request's response is read and its body awaited (R414, R415). -/
theorem run_readerState_header {tid : U16} {record : Pending} {size : Nat} (hget : s.tcpMap.get tid.toNat = some record)
    (hmin : 0 < size) (hmax : size ≤ 0xFFFE) (k : Nat) (input : Bytes) :
    Host.Core.run Sys2Proof.core (k + 7)
        (readerState s more (k + 7) (.rdHdr []) (mbapHeader tid size ++ record.unit :: input)) =
      Host.Core.run Sys2Proof.core k (readerState s more k (.rdBody tid record.unit size []) input) := by
  have hlast := readerByte_completesHeader (s := readerState s more k (.rdHdr (mbapHeader tid size)) input)
    rfl hget hmin hmax
  have hrun := run_readerState hs hopen more (st := .rdHdr) (n := 7) nofun (fun _ _ _ => readerByte_buffersHeader)
    (taken := mbapHeader tid size) rfl k record.unit input
  rw [hlast] at hrun
  exact hrun

/-- The body of a registered request's response is read and its waiter signalled (R410, R416). -/
theorem run_readerState_body {tid : U16} {record : Pending} (hget : s.tcpMap.get tid.toNat = some record)
    (b0 b1 : Byte) (rest input : Bytes) :
    Host.Core.run Sys2Proof.core (b0 :: b1 :: rest).length
        (readerState s more (b0 :: b1 :: rest).length (.rdBody tid record.unit (b0 :: b1 :: rest).length [])
          (b0 :: b1 :: rest ++ input)) = .next { s with
      script := more
      trState := .rdHdr []
      tcpIn := input
      tcpMap := s.tcpMap.del tid.toNat
      waiters := s.waiters.modify record.waiter (Waiter.signalled (Result.okPdu (.raw b0 b1 rest))) } := by
  obtain ⟨taken, last, hbody⟩ : ∃ taken last, taken ++ [last] = b0 :: b1 :: rest :=
    ⟨_, _, List.dropLast_append_getLast (List.cons_ne_nil b0 (b1 :: rest))⟩
  have hlength : taken.length + 1 = (b0 :: b1 :: rest).length := by rw [← hbody, List.length_append]; rfl
  have hrun := run_readerState hs hopen more (st := .rdBody tid record.unit (b0 :: b1 :: rest).length) nofun
    (fun _ _ _ => readerByte_buffersBody) hlength 0 last input
  have hlast := readerByte_completesBody
    (s := readerState s more 0 (.rdBody tid record.unit (b0 :: b1 :: rest).length taken) input) rfl hbody hget
  have hinput : taken ++ last :: input = b0 :: b1 :: rest ++ input := by rw [← hbody, List.append_assoc]; rfl
  have hk : 0 + 1 + taken.length = (b0 :: b1 :: rest).length := by omega
  rw [hlast, hinput, hk] at hrun
  exact hrun

end Runs

/-- Settles O52: the header names the registered request and the body's size, and the body completes that request alone. -/
theorem readerRoutesEachResponseByItsId : Obligations.ReaderRoutesEachResponseByItsId := by
  intro s tid record b0 b1 rest bytes more p hs hopen hst hsize hget hin hscript
  have hqueued : s.tcpIn = mbapHeader tid p.length ++ record.unit :: (p ++ bytes) := by
    rw [hin, mbapFrame_eq, List.append_assoc]; rfl
  have hstart := readerState_self hscript
  rw [hst, hqueued] at hstart
  refine (congrArg (Host.Core.run Sys2Proof.core _) hstart).trans ?_
  refine (run_readerState_header hs hopen more hget (Nat.succ_pos _) hsize p.length _).trans ?_
  refine (run_readerState_body hs hopen more hget b0 b1 rest bytes).trans ?_
  rw [← hst]
  rfl

end Sys2Proof.Machine
end

section
/-! PROOF. The CRC-16 engine: the function of R164, and the four commands that compute it (R160 to R165). -/

namespace Sys2Proof.Machine

/-! ### The function of R164 -/

/-- The eight shifts of R164 as an iteration. -/
theorem crcByte_eq_iterate (c : U16) (b : Byte) : crcByte c b = crcShift^[8] (c ^^^ b.setWidth 16) := rfl

/-- Bit 0 of a word decides between the same two results as its parity, and shifting is halving. -/
theorem toNat_crcShift (c : U16) : (crcShift c).toNat = refCrcShift c.toNat := by
  have hbit : c.getLsbD 0 = true ↔ c.toNat % 2 = 1 := by
    rw [BitVec.getLsbD, Nat.testBit_zero, decide_eq_true_iff]
  have hhalf : (c >>> 1).toNat = c.toNat / 2 := by
    rw [BitVec.toNat_ushiftRight, Nat.shiftRight_one]
  unfold crcShift refCrcShift
  split
  next hset => rw [if_pos (hbit.1 hset), BitVec.toNat_xor, hhalf]; rfl
  next hclear => rw [if_neg (mt hbit.2 hclear), hhalf]

theorem toNat_crcByte (c : U16) (b : Byte) : (crcByte c b).toNat = refCrcByte c.toNat b.toNat := by
  have hxor : (c ^^^ b.setWidth 16).toNat = c.toNat ^^^ b.toNat := by
    rw [BitVec.toNat_xor, BitVec.toNat_setWidth_of_le (by decide)]
  have hshifts := (show Function.Semiconj BitVec.toNat crcShift refCrcShift from toNat_crcShift).iterate_right 8
  rw [crcByte_eq_iterate, hshifts, hxor, refCrcByte]

theorem toNat_crcUpdate (c : U16) (bytes : Bytes) :
    (crcUpdate c bytes).toNat = refCrcUpdate c.toNat (bytes.map BitVec.toNat) := by
  rw [crcUpdate, refCrcUpdate, List.foldl_map]
  exact (List.foldl_hom BitVec.toNat fun c b => (toNat_crcByte c b).symm).symm

/-- Settles O10: the refinement of one shift carries over to the eight shifts of a byte and to the bytes of a string. -/
theorem crcRefinesTheBitLoop : Obligations.CrcRefinesTheBitLoop :=
  fun c bytes => ⟨toNat_crcUpdate c bytes, toNat_crcUpdate Config.crcInit bytes⟩

/-- R165. -/
theorem crcUpdate_append (c : U16) (a b : Bytes) : crcUpdate c (a ++ b) = crcUpdate (crcUpdate c a) b :=
  List.foldl_append

/-! ### The residue of a frame with its own CRC -/

/-- Shifts of R164 that move only clear bits out never take the polynomial. -/
theorem crcShift_iterate_of_low_clear (n : Nat) (c : U16) (hclear : ∀ i < n, c.getLsbD i = false) :
    crcShift^[n] c = c >>> n := by
  induction n generalizing c with
  | zero => exact (BitVec.ushiftRight_zero c).symm
  | succ n ih =>
    have hshift : crcShift c = c >>> 1 := if_neg (by rw [hclear 0 n.succ_pos]; decide)
    rw [Function.iterate_succ_apply, hshift, ih, ← BitVec.shiftRight_add, Nat.add_comm]
    intro i hi
    rw [BitVec.getLsbD_ushiftRight]
    exact hclear _ (by omega)

/-- XORing in the low byte clears it and leaves the high byte. -/
theorem getLsbD_xor_own_low (c : U16) (i : Nat) :
    (c ^^^ (c.extractLsb' 0 8).setWidth 16).getLsbD i = (decide (8 ≤ i) && c.getLsbD i) := by
  rw [BitVec.getLsbD_xor, BitVec.getLsbD_setWidth, BitVec.getLsbD_extractLsb', Nat.zero_add]
  by_cases hlow : i < 8
  · have h16 : i < 16 := by omega
    have h8 : ¬ 8 ≤ i := by omega
    simp [hlow, h16, h8]
  · simp [hlow, Nat.le_of_not_lt hlow]

/-- A register updated by its own low byte is left with its high byte. -/
theorem crcByte_own_low (c : U16) : crcByte c (c.extractLsb' 0 8) = (c.extractLsb' 8 8).setWidth 16 := by
  rw [crcByte_eq_iterate, crcShift_iterate_of_low_clear]
  · apply BitVec.eq_of_getLsbD_eq
    intro i hi
    rw [BitVec.getLsbD_ushiftRight, getLsbD_xor_own_low, BitVec.getLsbD_setWidth, BitVec.getLsbD_extractLsb']
    by_cases hlow : i < 8
    · simp [hlow, hi]
    · have hout : 16 ≤ 8 + i := by omega
      simp [hlow, BitVec.getLsbD_of_ge c _ hout]
  · intro i hi
    rw [getLsbD_xor_own_low, decide_eq_false (Nat.not_le.2 hi), Bool.false_and]

/-- A register updated by its own value is left with zero. -/
theorem crcByte_own_value (b : Byte) : crcByte (b.setWidth 16) b = 0 := by
  rw [crcByte_eq_iterate, BitVec.xor_self, crcShift_iterate_of_low_clear 8 0#16 (by simp)]
  rfl

theorem crcUpdate_own_bytes (c : U16) : crcUpdate c (le16 c) = 0 := by
  change crcByte (crcByte c (c.extractLsb' 0 8)) (c.extractLsb' 8 8) = 0
  rw [crcByte_own_low, crcByte_own_value]

/-- Settles O12: whatever the register holds, its own two bytes shift it out. -/
theorem frameWithItsCrcHasZeroResidue : Obligations.FrameWithItsCrcHasZeroResidue := by
  intro bytes
  rw [crc16, crcUpdate_append]
  exact crcUpdate_own_bytes (crc16 bytes)

/-! ### The commands -/

/-- Settles O9: the words stand in the table of R114, and each command is its rule. -/
theorem crcCommandsDoAsTheirRulesSay : Obligations.CrcCommandsDoAsTheirRulesSay :=
  ⟨rfl, rfl, rfl, rfl, fun _ => ⟨rfl, rfl, rfl, rfl⟩⟩

section Checksum

/-! What each command of `CHECKSUM_INC` does to the CRC register (R141, R160 to R162). -/

variable (h : Nat) (s : State) (rest : List (Instr × Operands))

theorem runSequence_crcInit : ∃ t, t.crc = Config.crcInit ∧
    runSequence h ((Instr.crcInit, {}) :: rest) s = runSequence h rest t :=
  ⟨_, rfl, runSequence_cons (t := { sequenceStart h {} s with crc := Config.crcInit }.answer Result.done) rfl rest⟩

theorem runSequence_crcWrite (data : Bytes) : ∃ t, t.crc = crcUpdate s.crc data ∧
    runSequence h ((Instr.crcWrite, { data := data }) :: rest) s = runSequence h rest t :=
  ⟨_, rfl, runSequence_cons
    (t := { sequenceStart h { data := data } s with crc := crcUpdate s.crc data }.answer Result.done) rfl rest⟩

/-- Writing the parts one by one updates the register by their concatenation (R165). -/
theorem runSequence_crcWrites (parts : List Bytes) : ∃ t, t.crc = crcUpdate s.crc parts.flatten ∧
    runSequence h (parts.map (fun b => (Instr.crcWrite, { data := b })) ++ rest) s = runSequence h rest t := by
  induction parts generalizing s with
  | nil => exact ⟨s, rfl, rfl⟩
  | cons part parts ih =>
    obtain ⟨s₁, hpart, hrun⟩ :=
      runSequence_crcWrite h s (parts.map (fun b => (Instr.crcWrite, { data := b })) ++ rest) part
    obtain ⟨t, hparts, hruns⟩ := ih s₁
    exact ⟨t, by rw [hparts, hpart, List.flatten_cons, crcUpdate_append], hrun.trans hruns⟩

theorem runSequence_crcRead : ∃ t, runSequence h [(Instr.crcRead, {})] s = .next t ∧ t.crc = s.crc ∧
    t.results.get h = some (Result.okValue (s.crc.setWidth 32)) :=
  ⟨(sequenceStart h {} s).answer (Result.okValue (s.crc.setWidth 32)), runSequence_cons rfl [], rfl,
    Assoc.get_put_same ..⟩

end Checksum

/-- Settles O11: from `CRC_INIT` on, the register is the CRC of the parts written so far. -/
theorem incrementalChecksumEqualsOneShot : Obligations.IncrementalChecksumEqualsOneShot := by
  refine ⟨fun c a b => (crcUpdate_append c a b).symm, fun h parts s => ?_⟩
  rw [Pseudo.expand, List.cons_append]
  obtain ⟨s₁, hinit, hrun⟩ := runSequence_crcInit h s _
  rw [hrun]
  obtain ⟨s₂, hwrites, hrun⟩ := runSequence_crcWrites h s₁ _ parts
  rw [hrun]
  have hcrc : s₂.crc = crc16 parts.flatten := by rw [hwrites, hinit, crc16]
  have hread := runSequence_crcRead h s₂
  rwa [hcrc] at hread

end Sys2Proof.Machine
end

section
/-! PROOF. The commands that only answer (42, 43 and 44, opening sections; R162, R163, R183, R184). -/

namespace Sys2Proof.Machine

/-- The framer's answer to a function-code byte sets its registers or ends a request. -/
theorem answersOnly_of_isResponseClass {i : Instr} (h : isResponseClass i = true) : answersOnly i = false := by
  cases i
  case rtuRespException | rtuRespReadFc01 | rtuRespReadFc02 | rtuRespReadFc03 | rtuRespReadFc04 | rtuRespWriteFc05 |
      rtuRespWriteFc06 | rtuRespWriteFc0F | rtuRespWriteFc10 | rtuRespUnsupported => rfl
  all_goals contradiction

/-- Of the effects of a command, only the plain answer belongs to a command that only answers. -/
theorem ExecEffect.eq_answer {i : Instr} {s t : State} (heff : ExecEffect s i t) (h : answersOnly i = true) :
    ∃ r, t = s.answer r := by
  cases heff with
  | answer _ r => exact ⟨r, rfl⟩
  | crc _ mem => obtain rfl | rfl := mem <;> contradiction
  | frame _ mem => obtain rfl | rfl | rfl := mem <;> contradiction
  | busy _ mem => obtain ⟨_, rfl⟩ | rfl := mem <;> contradiction
  | awaitLength _ mem | awaitBody _ mem => rw [answersOnly_of_isResponseClass mem] at h; contradiction
  | csr0 | csr1 | rtuStart | rtuClose | tcpStart | tcpClose | unsupported => contradiction

/-- Settles O30: every command has one of the effects of `ExecEffect`. -/
theorem codecCommandsWriteOnlyTheResultPort : Obligations.CodecCommandsWriteOnlyTheResultPort := by
  intro i s h
  obtain ⟨t, ht⟩ := everyInstructionAnswersANextState i s
  obtain ⟨r, rfl⟩ := (exec_effect ht).eq_answer h
  exact ⟨r, ht⟩

end Sys2Proof.Machine
end

section
/-! PROOF. The Frame Builder commands (R180 to R185): with no bound on the buffer, what is given is appended. -/

namespace Sys2Proof.Machine

/-- `be16` with its bytes taken out of the word by shift and truncation. -/
theorem be16_eq_shift (w : U16) : be16 w = [(w >>> 8).setWidth 8, w.setWidth 8] := rfl

/-- `le16` with its bytes taken out of the word by shift and truncation. -/
theorem le16_eq_shift (w : U16) : le16 w = [w.setWidth 8, (w >>> 8).setWidth 8] := rfl

/-- The loop of R182 appends the bytes of all its words, in their order; `appendWords_eq` with the bytes named. -/
theorem appendWords_eq_flatMap (ws : List U16) (s : State) :
    appendWords ws s = { s with fbBuf := s.fbBuf ++ ws.flatMap be16 }.answer Result.done := by
  induction ws generalizing s with
  | nil => rw [appendWords, List.flatMap_nil, List.append_nil]
  | cons w ws ih =>
    rw [appendWords, exceeds_fbCapacity, if_neg Bool.false_ne_true, ih, List.flatMap_cons, List.append_assoc]

theorem exec_fbAppendBytes (s : State) :
    exec .fbAppendBytes s = .next ({ s with fbBuf := s.fbBuf ++ s.ops.data }.answer Result.done) := by
  rw [exec, execFbAppendBytes, exceeds_fbCapacity, if_neg Bool.false_ne_true]

theorem exec_fbAppendU16 (s : State) :
    exec .fbAppendU16 s = .next ({ s with fbBuf := s.fbBuf ++ s.ops.words.flatMap be16 }.answer Result.done) := by
  rw [exec, execFbAppendU16, appendWords_eq_flatMap]

/-- Settles O13: the words stand in the table of R114, and each command is its rule, the appended words and the CRC written
out in bytes. -/
theorem frameBuilderCommandsDoAsTheirRulesSay : Obligations.FrameBuilderCommandsDoAsTheirRulesSay := by
  refine ⟨rfl, rfl, rfl, rfl, rfl, fun s => ⟨rfl, exec_fbAppendBytes s, ?_, rfl, ?_⟩⟩
  · simp only [← be16_eq_shift]
    exact exec_fbAppendU16 s
  · rw [← le16_eq_shift]
    rfl

end Sys2Proof.Machine
end

section
/-! PROOF. The codec commands on wire bytes (R121, R224 to R226): what each wire shape holds, and that decoding inverts
marshalling. -/

namespace Sys2Proof.Machine

/-! ### What a command's answer says about its codec operation -/

/-- A codec result is an error exactly when the codec fails with that detail. -/
theorem codecResult_eq_err_iff {failure : Status} {x : Except Detail PDU} {d : Detail} :
    codecResult failure x = Result.err failure d ↔ x = .error d := by
  cases x <;> simp [codecResult, Result.okPdu, Result.err]

theorem exec_unmarshalOf (v : Variant) (s : State) :
    exec (Instr.unmarshalOf v) s = answerDecode (unmarshalAs v s.ops.data) s := by
  cases v <;> rfl

theorem yieldsPdu_unmarshalOf_iff {v : Variant} {s : State} {p : PDU} :
    YieldsPdu (Instr.unmarshalOf v) s p ↔ unmarshalAs v s.ops.data = .ok p := by
  rw [YieldsPdu, exec_unmarshalOf, answerDecode, Host.Outcome.next.injEq, State.answer_inj, codecResult_eq_okPdu_iff]

/-! ### Marshalling -/

/-- `MARSHAL.<V>` of a PDU with another tag (R118, R224). -/
theorem failsWith_marshalOf {v : Variant} {s : State} (htag : s.ops.pdu.variant ≠ v) :
    FailsWith (Instr.marshalOf v) s .errIllegalOp .operand := by
  have harm : exec (Instr.marshalOf v) s = answerMarshal v s := by cases v <;> rfl
  rw [FailsWith, harm, answerMarshal, if_neg htag]

/-- `MARSHAL.<V>` of a given PDU with its own tag, its wire bytes written out. -/
theorem exec_marshalOf_variant {s : State} {p : PDU} {wire : Bytes} (hwire : p.marshal = wire) (hp : s.port.ops.pdu = p) :
    exec (Instr.marshalOf p.variant) s = .next (s.answer (Result.okData wire)) := by
  subst hwire hp
  exact exec_marshalOf rfl

/-- The value word of R126 is 0xFF00 or 0x0000. -/
theorem be16_coilWord (value : Bool) : be16 (coilWord value) = [if value then 0xFF else 0x00, 0x00] := by
  cases value <;> rfl

theorem marshal_wsbq (fc : Byte) (x : U16) (value : Bool) :
    (PDU.wsbq fc x value).marshal = fc :: (be16 x ++ [if value then 0xFF else 0x00, 0x00]) := by
  rw [PDU.marshal, be16_coilWord]
  rfl

theorem marshal_wsbs (fc : Byte) (x : U16) (value : Bool) :
    (PDU.wsbs fc x value).marshal = fc :: (be16 x ++ [if value then 0xFF else 0x00, 0x00]) := by
  rw [PDU.marshal, be16_coilWord]
  rfl

/-- Settles O18: the tag test of `answerMarshal`, and the layout of each variant. -/
theorem marshalReturnsTheWireLayout : Obligations.MarshalReturnsTheWireLayout := by
  refine ⟨fun v s => failsWith_marshalOf, fun s fc b0 b1 x y value bytes => ?_⟩
  exact ⟨exec_marshalOf_variant rfl, exec_marshalOf_variant rfl, exec_marshalOf_variant (marshal_wsbq ..),
    exec_marshalOf_variant (marshal_wsbs ..), exec_marshalOf_variant rfl, exec_marshalOf_variant rfl,
    exec_marshalOf_variant rfl, exec_marshalOf_variant rfl, exec_marshalOf_variant rfl, exec_marshalOf_variant rfl,
    exec_marshalOf_variant rfl, exec_marshalOf_variant rfl, exec_marshalOf_variant rfl, exec_marshalOf_variant rfl⟩

/-! ### Decoding the wire shapes -/

/-- The byte count of a payload that it can count (R127). -/
theorem countByte_toNat {bytes : Bytes} (h : bytes.length < 256) : (countByte bytes).toNat = bytes.length :=
  Nat.mod_eq_of_lt h

/-- A byte that holds a payload's length is its byte count. -/
theorem countByte_of_length {bytes : Bytes} {n : Byte} (h : bytes.length = n.toNat) : countByte bytes = n := by
  rw [countByte, h, BitVec.ofNat_toNat, BitVec.setWidth_eq]

section Shapes

variable {data : Bytes} {p : PDU}

/-! The bytes from which a shape's decoder yields a PDU are the layout of the fields that it hands to the constructor. -/

theorem layout_of_unmarshalTwoWords {mk : Nat → Nat → Nat → Except Detail PDU} (h : unmarshalTwoWords mk data = .ok p) :
    ∃ (fc : Byte) (x y : U16), data = fc :: (be16 x ++ be16 y) ∧ mk fc.toNat x.toNat y.toNat = .ok p := by
  unfold unmarshalTwoWords at h
  split at h
  next fc ah al bh bl => exact ⟨fc, rd16 ah al, rd16 bh bl, by rw [be16_rd16, be16_rd16]; rfl, h⟩
  next => contradiction

theorem layout_of_unmarshalCounted {mk : Nat → Bytes → Except Detail PDU} (h : unmarshalCounted mk data = .ok p) :
    ∃ (fc : Byte) (bytes : Bytes), data = fc :: countByte bytes :: bytes ∧ mk fc.toNat bytes = .ok p := by
  unfold unmarshalCounted at h
  split at h
  next fc n payload =>
    split at h
    next => contradiction
    next hlen => exact ⟨fc, payload, by rw [countByte_of_length (not_not.1 hlen)], h⟩
  next => contradiction

theorem layout_of_unmarshalSingleBit {mk : Nat → Nat → Nat → Except Detail PDU}
    (h : unmarshalSingleBit mk data = .ok p) :
    ∃ (fc : Byte) (x : U16) (value : Bool),
      data = fc :: (be16 x ++ be16 (coilWord value)) ∧ mk fc.toNat x.toNat value.toNat = .ok p := by
  unfold unmarshalSingleBit at h
  split at h
  next fc ah al vh vl =>
    have layout {value : Bool} (hword : rd16 vh vl = coilWord value) :
        [fc, ah, al, vh, vl] = fc :: (be16 (rd16 ah al) ++ be16 (coilWord value)) := by
      rw [← hword, be16_rd16, be16_rd16]; rfl
    split at h
    next hon => exact ⟨fc, rd16 ah al, true, layout hon, h⟩
    next =>
      split at h
      next hoff => exact ⟨fc, rd16 ah al, false, layout hoff, h⟩
      next => contradiction
  next => contradiction

theorem layout_of_unmarshalMultiple {mk : Nat → Nat → Nat → Bytes → Except Detail PDU}
    (h : unmarshalMultiple mk data = .ok p) :
    ∃ (fc : Byte) (x y : U16) (bytes : Bytes),
      data = fc :: (be16 x ++ be16 y) ++ countByte bytes :: bytes ∧ mk fc.toNat x.toNat y.toNat bytes = .ok p := by
  unfold unmarshalMultiple at h
  split at h
  next fc ah al ch cl n payload =>
    split at h
    next => contradiction
    next hlen =>
      exact ⟨fc, rd16 ah al, rd16 ch cl, payload,
        by rw [be16_rd16, be16_rd16, countByte_of_length (not_not.1 hlen)]; rfl, h⟩
  next => contradiction

theorem layout_of_unmarshalSingleRegister {mk : Nat → Nat → Bytes → Except Detail PDU}
    (h : unmarshalSingleRegister mk data = .ok p) :
    ∃ (fc : Byte) (x : U16) (bytes : Bytes), data = fc :: (be16 x ++ bytes) ∧ mk fc.toNat x.toNat bytes = .ok p := by
  unfold unmarshalSingleRegister at h
  split at h
  next fc ah al v0 v1 => exact ⟨fc, rd16 ah al, [v0, v1], by rw [be16_rd16]; rfl, h⟩
  next => contradiction

theorem layout_of_unmarshalExcBytes (h : unmarshalExcBytes data = .ok p) :
    ∃ b0 b1 : Byte, data = [b0, b1] ∧ newExc b0.toNat b1.toNat = .ok p := by
  unfold unmarshalExcBytes at h
  split at h
  next b0 b1 => exact ⟨b0, b1, rfl, h⟩
  next => contradiction

/-! From the layout of its fields, a shape's decoder hands those fields to the constructor. -/

section Layouts

variable (fc : Byte) (x y : U16) {bytes : Bytes}

theorem unmarshalTwoWords_layout (mk : Nat → Nat → Nat → Except Detail PDU) :
    unmarshalTwoWords mk (fc :: (be16 x ++ be16 y)) = mk fc.toNat x.toNat y.toNat := by
  simp [unmarshalTwoWords, be16]

theorem unmarshalCounted_layout (mk : Nat → Bytes → Except Detail PDU) (h : bytes.length < 256) :
    unmarshalCounted mk (fc :: countByte bytes :: bytes) = mk fc.toNat bytes := by
  simp [unmarshalCounted, countByte_toNat h]

theorem unmarshalSingleBit_layout (mk : Nat → Nat → Nat → Except Detail PDU) (value : Bool) :
    unmarshalSingleBit mk (fc :: (be16 x ++ be16 (coilWord value))) = mk fc.toNat x.toNat value.toNat := by
  simp only [unmarshalSingleBit, be16, List.cons_append, List.nil_append, rd16_be16]
  cases value <;> rfl

theorem unmarshalMultiple_layout (mk : Nat → Nat → Nat → Bytes → Except Detail PDU) (h : bytes.length < 256) :
    unmarshalMultiple mk (fc :: (be16 x ++ be16 y) ++ countByte bytes :: bytes) =
      mk fc.toNat x.toNat y.toNat bytes := by
  simp [unmarshalMultiple, be16, countByte_toNat h]

theorem unmarshalSingleRegister_layout (mk : Nat → Nat → Bytes → Except Detail PDU) (h : bytes.length = 2) :
    unmarshalSingleRegister mk (fc :: (be16 x ++ bytes)) = mk fc.toNat x.toNat bytes := by
  obtain ⟨v0, v1, rfl⟩ := List.length_eq_two.1 h
  simp [unmarshalSingleRegister, be16]

end Layouts

/-! ### Decoding and marshalling are inverse -/

theorem construct_wsbq_fieldOperands (fc : Byte) (x : U16) (value : Bool) :
    construct .wsbq (PDU.wsbq fc x value).fieldOperands = newWsbq fc.toNat x.toNat value.toNat :=
  congrArg (newWsbq fc.toNat x.toNat) (bitOperand_toNat value)

theorem construct_wsbs_fieldOperands (fc : Byte) (x : U16) (value : Bool) :
    construct .wsbs (PDU.wsbs fc x value).fieldOperands = newWsbs fc.toNat x.toNat value.toNat :=
  congrArg (newWsbs fc.toNat x.toNat) (bitOperand_toNat value)

/-- What a decoder yields was constructed from the fields that the bytes lay out. -/
theorem fields_of_unmarshalAs {v : Variant} (h : unmarshalAs v data = .ok p) :
    ∃ q : PDU, q.variant = v ∧ q.marshal = data ∧ construct v q.fieldOperands = .ok p := by
  cases v with
  | rbq =>
    obtain ⟨fc, x, y, rfl, hmk⟩ := layout_of_unmarshalTwoWords h
    exact ⟨.rbq fc x y, rfl, rfl, hmk⟩
  | rbs =>
    obtain ⟨fc, bytes, rfl, hmk⟩ := layout_of_unmarshalCounted h
    exact ⟨.rbs fc bytes, rfl, rfl, hmk⟩
  | wsbq =>
    obtain ⟨fc, x, value, rfl, hmk⟩ := layout_of_unmarshalSingleBit h
    exact ⟨.wsbq fc x value, rfl, rfl, (construct_wsbq_fieldOperands fc x value).trans hmk⟩
  | wsbs =>
    obtain ⟨fc, x, value, rfl, hmk⟩ := layout_of_unmarshalSingleBit h
    exact ⟨.wsbs fc x value, rfl, rfl, (construct_wsbs_fieldOperands fc x value).trans hmk⟩
  | wmbq =>
    obtain ⟨fc, x, y, bytes, rfl, hmk⟩ := layout_of_unmarshalMultiple h
    exact ⟨.wmbq fc x y bytes, rfl, rfl, hmk⟩
  | wmbs =>
    obtain ⟨fc, x, y, rfl, hmk⟩ := layout_of_unmarshalTwoWords h
    exact ⟨.wmbs fc x y, rfl, rfl, hmk⟩
  | rrq =>
    obtain ⟨fc, x, y, rfl, hmk⟩ := layout_of_unmarshalTwoWords h
    exact ⟨.rrq fc x y, rfl, rfl, hmk⟩
  | rrs =>
    obtain ⟨fc, bytes, rfl, hmk⟩ := layout_of_unmarshalCounted h
    exact ⟨.rrs fc bytes, rfl, rfl, hmk⟩
  | wsrq =>
    obtain ⟨fc, x, bytes, rfl, hmk⟩ := layout_of_unmarshalSingleRegister h
    exact ⟨.wsrq fc x bytes, rfl, rfl, hmk⟩
  | wsrs =>
    obtain ⟨fc, x, bytes, rfl, hmk⟩ := layout_of_unmarshalSingleRegister h
    exact ⟨.wsrs fc x bytes, rfl, rfl, hmk⟩
  | wmrq =>
    obtain ⟨fc, x, y, bytes, rfl, hmk⟩ := layout_of_unmarshalMultiple h
    exact ⟨.wmrq fc x y bytes, rfl, rfl, hmk⟩
  | wmrs =>
    obtain ⟨fc, x, y, rfl, hmk⟩ := layout_of_unmarshalTwoWords h
    exact ⟨.wmrs fc x y, rfl, rfl, hmk⟩
  | exc =>
    obtain ⟨b0, b1, rfl, hmk⟩ := layout_of_unmarshalExcBytes h
    exact ⟨.exc b0 b1, rfl, rfl, hmk⟩
  | raw =>
    obtain ⟨b0, b1, bytes, rfl, hp⟩ := newRaw_ok.1 h
    exact ⟨.raw b0 b1 bytes, rfl, rfl, h⟩

/-- Validity is that the PDU's own constructor accepts its fields. -/
theorem isOk_construct_fieldOperands (q : PDU) : (construct q.variant q.fieldOperands).isOk = q.valid := by
  cases q with
  | wsbq fc x value => exact congrArg Except.isOk (construct_wsbq_fieldOperands fc x value)
  | wsbs fc x value => exact congrArg Except.isOk (construct_wsbs_fieldOperands fc x value)
  | _ => rfl

/-- What a PDU's own fields construct is that PDU, and it is valid. -/
theorem eq_of_construct_fieldOperands {q : PDU} (h : construct q.variant q.fieldOperands = .ok p) :
    q = p ∧ q.valid = true := by
  have hq : q.valid = true := isOk_construct_fieldOperands q ▸ isOk_iff.2 ⟨p, h⟩
  exact ⟨Except.ok.inj ((construct_fieldOperands hq).symm.trans h), hq⟩

/-- The decoder of a valid PDU's tag hands the PDU's own fields to the constructor: its payload's length fits the byte count,
and a single register has two bytes. -/
theorem unmarshalAs_marshal_eq_construct {q : PDU} (hq : q.valid = true) :
    unmarshalAs q.variant q.marshal = construct q.variant q.fieldOperands := by
  cases q with
  | rbq fc x y => exact unmarshalTwoWords_layout fc x y newRbq
  | wmbs fc x y => exact unmarshalTwoWords_layout fc x y newWmbs
  | rrq fc x y => exact unmarshalTwoWords_layout fc x y newRrq
  | wmrs fc x y => exact unmarshalTwoWords_layout fc x y newWmrs
  | rbs fc bytes =>
    obtain ⟨-, hlen⟩ := (valid_rbs ..).1 hq
    exact unmarshalCounted_layout fc newRbs (bytes := bytes) (by omega)
  | rrs fc bytes =>
    obtain ⟨-, -, hlen⟩ := (valid_rrs ..).1 hq
    exact unmarshalCounted_layout fc newRrs (bytes := bytes) (by omega)
  | wsbq fc x value =>
    exact (unmarshalSingleBit_layout fc x newWsbq value).trans (construct_wsbq_fieldOperands fc x value).symm
  | wsbs fc x value =>
    exact (unmarshalSingleBit_layout fc x newWsbs value).trans (construct_wsbs_fieldOperands fc x value).symm
  | wmbq fc x y bytes =>
    obtain ⟨-, hcount, hlen⟩ := (valid_wmbq ..).1 hq
    rw [packedLen_iff] at hlen
    exact unmarshalMultiple_layout fc x y newWmbq (bytes := bytes) (by omega)
  | wmrq fc x y bytes =>
    obtain ⟨-, -, hcount, hlen⟩ := (valid_wmrq ..).1 hq
    exact unmarshalMultiple_layout fc x y newWmrq (bytes := bytes) (by omega)
  | wsrq fc x bytes => exact unmarshalSingleRegister_layout fc x newWsrq ((valid_wsrq ..).1 hq).2
  | wsrs fc x bytes => exact unmarshalSingleRegister_layout fc x newWsrs ((valid_wsrs ..).1 hq).2
  | exc | raw => rfl

/-- A decoder accepts exactly the wire bytes of the valid PDUs of its tag. -/
theorem unmarshalAs_eq_ok_iff {v : Variant} :
    unmarshalAs v data = .ok p ↔ p.variant = v ∧ p.valid = true ∧ p.marshal = data := by
  constructor
  · intro h
    obtain ⟨q, rfl, rfl, hmk⟩ := fields_of_unmarshalAs h
    obtain ⟨rfl, hq⟩ := eq_of_construct_fieldOperands hmk
    exact ⟨rfl, hq, rfl⟩
  · rintro ⟨rfl, hp, rfl⟩
    exact (unmarshalAs_marshal_eq_construct hp).trans (construct_fieldOperands hp)

end Shapes

/-- Settles O21: a decoder's answer is the result of `unmarshalAs`, which accepts exactly those bytes. -/
theorem unmarshalAcceptsExactlyTheMarshalledBytes : Obligations.UnmarshalAcceptsExactlyTheMarshalledBytes :=
  fun _ _ _ => yieldsPdu_unmarshalOf_iff.trans unmarshalAs_eq_ok_iff

/-- Settles O19: what a constructor yields is valid and has its tag, so its decoder accepts its wire bytes. -/
theorem marshalThenUnmarshalRoundTrips : Obligations.MarshalThenUnmarshalRoundTrips := by
  intro v s₀ p hyields
  obtain ⟨rfl, hp⟩ := construct_valid (yieldsPdu_newOf_iff.1 hyields)
  exact ⟨p.marshal, fun s => exec_marshalOf_variant rfl, fun s hdata =>
    yieldsPdu_unmarshalOf_iff.2 (unmarshalAs_eq_ok_iff.2 ⟨rfl, hp, hdata.symm⟩)⟩

end Sys2Proof.Machine
end

section
/-! PROOF. The six bit constructors (R201, R205, R209, R213, R217, R221): the first failing check names the detail. -/

namespace Sys2Proof.Machine

theorem failsWith_newOf_iff (v : Variant) {s : State} {d : Detail} :
    FailsWith (Instr.newOf v) s .errValidation d ↔ construct v s.ops = .error d := by
  rw [FailsWith, exec_newOf, answerNew, Host.Outcome.next.injEq, State.answer_inj, codecResult_eq_err_iff]

/-- Every constructor but those of the exception and the raw PDU checks the function code first (R200). -/
theorem construct_error_fc {v : Variant} {o : Operands} (hexc : v ≠ .exc) (hraw : v ≠ .raw) (hfc : ¬ FcIn o.i0) :
    construct v o = .error .fc := by
  have hcheck : ¬ fcOk o.i0 = true := mt (fcOk_iff o.i0).1 hfc
  cases v with
  | exc | raw => contradiction
  | _ => exact if_pos hcheck

theorem fcOk_of_fcIn {n : Nat} (hfc : FcIn n) : ¬ ¬ fcOk n = true := not_not.2 ((fcOk_iff n).2 hfc)

section Checks

/-! With the function code in range, each later check by the detail it names. -/

variable {n0 n1 n2 : Nat} {data : Bytes} (hfc : FcIn n0)

include hfc

theorem newRbq_error_width (h : n1 > 0xFFFF ∨ n2 > 0xFFFF) : newRbq n0 n1 n2 = .error .width :=
  (if_neg (fcOk_of_fcIn hfc)).trans (if_pos h)

theorem newRbq_error_count (h1 : n1 ≤ 0xFFFF) (h2 : n2 ≤ 0xFFFF) (h : n2 < 1 ∨ n2 > 2000) :
    newRbq n0 n1 n2 = .error .count :=
  (if_neg (fcOk_of_fcIn hfc)).trans <| (if_neg (by omega)).trans (if_pos h)

theorem newRbq_error_addr (h1 : n1 ≤ 0xFFFF) (hmin : 1 ≤ n2) (hmax : n2 ≤ 2000) (h : n1 + n2 > 0xFFFF) :
    newRbq n0 n1 n2 = .error .addr :=
  have hcount : ¬ (n2 < 1 ∨ n2 > 2000) := by omega
  (if_neg (fcOk_of_fcIn hfc)).trans <| (if_neg (by omega)).trans <| (if_neg hcount).trans (if_pos h)

theorem newRbs_error_len (h : data.length > 251) : newRbs n0 data = .error .len :=
  (if_neg (fcOk_of_fcIn hfc)).trans (if_pos h)

theorem newSingleBit_error_width (mk : Byte → U16 → Bool → PDU) (h : n1 > 0xFFFF ∨ n2 > 1) :
    newSingleBit mk n0 n1 n2 = .error .width :=
  (if_neg (fcOk_of_fcIn hfc)).trans (if_pos h)

theorem newWmbq_error_width (h : n1 > 0xFFFF ∨ n2 > 0xFFFF) : newWmbq n0 n1 n2 data = .error .width :=
  (if_neg (fcOk_of_fcIn hfc)).trans (if_pos h)

theorem newWmbq_error_count (h1 : n1 ≤ 0xFFFF) (h2 : n2 ≤ 0xFFFF) (h : n2 > 0x7B0) :
    newWmbq n0 n1 n2 data = .error .count :=
  (if_neg (fcOk_of_fcIn hfc)).trans <| (if_neg (by omega)).trans (if_pos h)

theorem newWmbq_error_len (h1 : n1 ≤ 0xFFFF) (h2 : n2 ≤ 0x7B0) (h : data.length ≠ packedLen n2) :
    newWmbq n0 n1 n2 data = .error .len :=
  (if_neg (fcOk_of_fcIn hfc)).trans <| (if_neg (by omega)).trans <| (if_neg (Nat.not_lt.2 h2)).trans (if_pos h)

theorem newEcho_error_width (mk : Byte → U16 → U16 → PDU) (h : n1 > 0xFFFF ∨ n2 > 0xFFFF) :
    newEcho mk n0 n1 n2 = .error .width :=
  (if_neg (fcOk_of_fcIn hfc)).trans (if_pos h)

end Checks

/-- Settles O15: the function-code check of all six, then each constructor's checks in their order. -/
theorem bitConstructorsValidate : Obligations.BitConstructorsValidate := by
  refine ⟨rfl, rfl, rfl, rfl, rfl, rfl, ?_⟩
  rintro s n0 n1 n2 data rfl rfl rfl rfl
  refine ⟨fun hfc i hi => ?_, fun hfc => ⟨?_, ?_, ?_, ?_, ?_, ?_, ?_, ?_, ?_, ?_, ?_, ?_, ?_, ?_⟩⟩
  case refine_1 =>
    obtain ⟨v, hv, rfl⟩ :=
      List.mem_map.1 (show i ∈ [Variant.rbq, .rbs, .wsbq, .wsbs, .wmbq, .wmbs].map Instr.newOf from hi)
    exact (failsWith_newOf_iff v).2
      (construct_error_fc (ne_of_mem_of_not_mem hv (by decide)) (ne_of_mem_of_not_mem hv (by decide)) hfc)
  -- RBQ
  · exact fun h => (failsWith_newOf_iff .rbq).2 (newRbq_error_width hfc h)
  · exact fun h1 h2 h => (failsWith_newOf_iff .rbq).2 (newRbq_error_count hfc h1 h2 h)
  · exact fun h1 hmin hmax h => (failsWith_newOf_iff .rbq).2 (newRbq_error_addr hfc h1 hmin hmax h)
  · exact fun hmin hmax h =>
      (yieldsPdu_newOf_iff (v := .rbq)).2 (newRbq_ok.2 ⟨hfc, (Nat.le_add_right ..).trans h, hmin, hmax, h, rfl⟩)
  -- RBS
  · exact fun h => (failsWith_newOf_iff .rbs).2 (newRbs_error_len hfc h)
  · exact fun h => (yieldsPdu_newOf_iff (v := .rbs)).2 (newRbs_ok.2 ⟨hfc, h, rfl⟩)
  -- WSBQ and WSBS
  · exact fun h => ⟨(failsWith_newOf_iff .wsbq).2 (newSingleBit_error_width hfc .wsbq h),
      (failsWith_newOf_iff .wsbs).2 (newSingleBit_error_width hfc .wsbs h)⟩
  · intro value h1 h2
    have hbit : s.port.ops.n2.toNat ≤ 1 := h2 ▸ value.toNat_le
    have hvalue : value = decide (s.port.ops.n2.toNat = 1) := by rw [h2]; cases value <;> rfl
    exact ⟨(yieldsPdu_newOf_iff (v := .wsbq)).2 (newSingleBit_ok.2 ⟨hfc, h1, hbit, congrArg _ hvalue⟩),
      (yieldsPdu_newOf_iff (v := .wsbs)).2 (newSingleBit_ok.2 ⟨hfc, h1, hbit, congrArg _ hvalue⟩)⟩
  -- WMBQ
  · exact fun h => (failsWith_newOf_iff .wmbq).2 (newWmbq_error_width hfc h)
  · exact fun h1 h2 h => (failsWith_newOf_iff .wmbq).2 (newWmbq_error_count hfc h1 h2 h)
  · exact fun h1 h2 h => (failsWith_newOf_iff .wmbq).2 (newWmbq_error_len hfc h1 h2 (mt (packedLen_iff ..).1 h))
  · exact fun h1 h2 hmin hmax =>
      (yieldsPdu_newOf_iff (v := .wmbq)).2 (newWmbq_ok.2 ⟨hfc, h1, h2, (packedLen_iff ..).2 ⟨hmin, hmax⟩, rfl⟩)
  -- WMBS
  · exact fun h => (failsWith_newOf_iff .wmbs).2 (newEcho_error_width hfc .wmbs h)
  · exact fun h1 h2 => (yieldsPdu_newOf_iff (v := .wmbs)).2 (newEcho_ok.2 ⟨hfc, h1, h2, rfl⟩)

end Sys2Proof.Machine
end

section
/-! PROOF. The six bit decoders (R203, R207, R211, R215, R219, R223): length, byte count and value word, then the
constructor. -/

namespace Sys2Proof.Machine

theorem failsWith_unmarshalOf_iff (v : Variant) {s : State} {d : Detail} :
    FailsWith (Instr.unmarshalOf v) s .errDecode d ↔ unmarshalAs v s.ops.data = .error d := by
  rw [FailsWith, exec_unmarshalOf, answerDecode, Host.Outcome.next.injEq, State.answer_inj, codecResult_eq_err_iff]

/-- A decoder ends as its constructor does when its bytes come to that construction. -/
theorem decodesAs_of_eq (v : Variant) {s u : State} (h : unmarshalAs v s.ops.data = construct v u.ops) :
    DecodesAs (Instr.unmarshalOf v) s (Instr.newOf v) u :=
  ⟨fun _ hp => yieldsPdu_unmarshalOf_iff.2 (h.trans (yieldsPdu_newOf_iff.1 hp)),
    fun _ hd => (failsWith_unmarshalOf_iff v).2 (h.trans ((failsWith_newOf_iff v).1 hd))⟩

section Shapes

variable {data payload : Bytes} {fc a1 a0 c1 c0 n : Byte} {o : Operands}

/-! ### The five-byte shape of two words -/

theorem unmarshalTwoWords_error_frameLen (mk : Nat → Nat → Nat → Except Detail PDU) (h : data.length ≠ 5) :
    unmarshalTwoWords mk data = .error .frameLen := by
  unfold unmarshalTwoWords
  split
  next => exact absurd rfl h
  next => rfl

theorem unmarshalTwoWords_eq_of_operands (mk : Nat → Nat → Nat → Except Detail PDU) (hdata : data = [fc, a1, a0, c1, c0])
    (h0 : o.n0.toNat = fc.toNat) (h1 : o.n1.toNat = a1.toNat * 256 + a0.toNat)
    (h2 : o.n2.toNat = c1.toNat * 256 + c0.toNat) : unmarshalTwoWords mk data = mk o.i0 o.i1 o.i2 := by
  rw [hdata, Operands.i0, Operands.i1, Operands.i2, h0, h1, h2, ← rd16_toNat, ← rd16_toNat]
  rfl

/-! ### The shape of a counted payload -/

theorem unmarshalCounted_error_frameLen (mk : Nat → Bytes → Except Detail PDU) (h : data.length < 2) :
    unmarshalCounted mk data = .error .frameLen := by
  unfold unmarshalCounted
  split
  next => simp only [List.length_cons] at h; omega
  next => rfl

theorem unmarshalCounted_error_byteCount (mk : Nat → Bytes → Except Detail PDU) (hdata : data = fc :: n :: payload)
    (h : payload.length ≠ n.toNat) : unmarshalCounted mk data = .error .byteCount :=
  hdata ▸ if_pos h

theorem unmarshalCounted_eq_of_operands (mk : Nat → Bytes → Except Detail PDU) (hdata : data = fc :: n :: payload)
    (h : payload.length = n.toNat) (h0 : o.n0.toNat = fc.toNat) (hpayload : o.data = payload) :
    unmarshalCounted mk data = mk o.i0 o.data := by
  rw [hdata, Operands.i0, h0, hpayload]
  exact if_neg (not_not.2 h)

/-! ### The five-byte shape of a value word -/

theorem unmarshalSingleBit_error_frameLen (mk : Nat → Nat → Nat → Except Detail PDU) (h : data.length ≠ 5) :
    unmarshalSingleBit mk data = .error .frameLen := by
  unfold unmarshalSingleBit
  split
  next => exact absurd rfl h
  next => rfl

/-- Only the bytes FF 00 and 00 00 read as a value word (R126). -/
theorem bytes_of_rd16_eq_coilWord {hi lo : Byte} {value : Bool} (h : rd16 hi lo = coilWord value) :
    hi = (if value then 0xFF else 0x00) ∧ lo = 0x00 := by
  have hbytes : [hi, lo] = [if value then 0xFF else 0x00, 0x00] := by rw [← be16_rd16, h, be16_coilWord]
  simpa using hbytes

theorem unmarshalSingleBit_error_coilValue (mk : Nat → Nat → Nat → Except Detail PDU) (hdata : data = [fc, a1, a0, c1, c0])
    (h : ¬ (c0 = 0x00 ∧ (c1 = 0xFF ∨ c1 = 0x00))) : unmarshalSingleBit mk data = .error .coilValue := by
  have hword (value : Bool) : rd16 c1 c0 ≠ coilWord value := by
    intro heq
    obtain ⟨h1, h0⟩ := bytes_of_rd16_eq_coilWord heq
    cases value with
    | false => exact h ⟨h0, .inr h1⟩
    | true => exact h ⟨h0, .inl h1⟩
  rw [hdata]
  exact (if_neg (hword true)).trans (if_neg (hword false))

theorem unmarshalSingleBit_eq_of_operands (mk : Nat → Nat → Nat → Except Detail PDU) {value : Bool}
    (hdata : data = [fc, a1, a0, if value then 0xFF else 0x00, 0x00]) (h0 : o.n0.toNat = fc.toNat)
    (h1 : o.n1.toNat = a1.toNat * 256 + a0.toNat) (h2 : o.n2.toNat = value.toNat) :
    unmarshalSingleBit mk data = mk o.i0 o.i1 o.i2 := by
  rw [hdata, Operands.i0, Operands.i1, Operands.i2, h0, h1, h2, ← rd16_toNat,
    ← unmarshalSingleBit_layout fc (rd16 a1 a0) mk value, be16_coilWord, be16_rd16]
  rfl

/-! ### The shape of two words and a counted payload -/

theorem unmarshalMultiple_error_frameLen (mk : Nat → Nat → Nat → Bytes → Except Detail PDU) (h : data.length < 6) :
    unmarshalMultiple mk data = .error .frameLen := by
  unfold unmarshalMultiple
  split
  next => simp only [List.length_cons] at h; omega
  next => rfl

theorem unmarshalMultiple_error_byteCount (mk : Nat → Nat → Nat → Bytes → Except Detail PDU)
    (hdata : data = fc :: a1 :: a0 :: c1 :: c0 :: n :: payload) (h : payload.length ≠ n.toNat) :
    unmarshalMultiple mk data = .error .byteCount :=
  hdata ▸ if_pos h

theorem unmarshalMultiple_eq_of_operands (mk : Nat → Nat → Nat → Bytes → Except Detail PDU)
    (hdata : data = fc :: a1 :: a0 :: c1 :: c0 :: n :: payload) (h : payload.length = n.toNat)
    (h0 : o.n0.toNat = fc.toNat) (h1 : o.n1.toNat = a1.toNat * 256 + a0.toNat)
    (h2 : o.n2.toNat = c1.toNat * 256 + c0.toNat) (hpayload : o.data = payload) :
    unmarshalMultiple mk data = mk o.i0 o.i1 o.i2 o.data := by
  rw [hdata, Operands.i0, Operands.i1, Operands.i2, h0, h1, h2, hpayload, ← rd16_toNat, ← rd16_toNat]
  exact if_neg (not_not.2 h)

end Shapes

/-- Settles O22: each wire shape's checks in their order, then the construction from the operands it reads. -/
theorem bitDecodersCheckLengthThenConstruct : Obligations.BitDecodersCheckLengthThenConstruct := by
  refine ⟨rfl, rfl, rfl, rfl, rfl, rfl, fun s => ⟨fun h => ?_, ?_, fun h => ?_, ?_, fun h => ?_, ?_, fun h => ?_, ?_⟩⟩
  -- RBQ and WMBS
  · exact ⟨(failsWith_unmarshalOf_iff .rbq).2 (unmarshalTwoWords_error_frameLen newRbq h),
      (failsWith_unmarshalOf_iff .wmbs).2 (unmarshalTwoWords_error_frameLen newWmbs h)⟩
  · intro fc a1 a0 c1 c0 u hdata h0 h1 h2
    exact ⟨decodesAs_of_eq .rbq (unmarshalTwoWords_eq_of_operands newRbq hdata h0 h1 h2),
      decodesAs_of_eq .wmbs (unmarshalTwoWords_eq_of_operands newWmbs hdata h0 h1 h2)⟩
  -- RBS
  · exact (failsWith_unmarshalOf_iff .rbs).2 (unmarshalCounted_error_frameLen newRbs h)
  · intro fc n bits hdata
    refine ⟨fun h => ?_, fun h u h0 hbits => ?_⟩
    · exact (failsWith_unmarshalOf_iff .rbs).2 (unmarshalCounted_error_byteCount newRbs hdata h)
    · exact decodesAs_of_eq .rbs (unmarshalCounted_eq_of_operands newRbs hdata h h0 hbits)
  -- WSBQ and WSBS
  · exact ⟨(failsWith_unmarshalOf_iff .wsbq).2 (unmarshalSingleBit_error_frameLen newWsbq h),
      (failsWith_unmarshalOf_iff .wsbs).2 (unmarshalSingleBit_error_frameLen newWsbs h)⟩
  · intro fc a1 a0 v1 v0 hdata
    refine ⟨fun h => ?_, fun u hv0 hvalue h0 h1 => ?_⟩
    · exact ⟨(failsWith_unmarshalOf_iff .wsbq).2 (unmarshalSingleBit_error_coilValue newWsbq hdata h),
        (failsWith_unmarshalOf_iff .wsbs).2 (unmarshalSingleBit_error_coilValue newWsbs hdata h)⟩
    · obtain ⟨value, hv1, h2⟩ : ∃ value : Bool, v1 = (if value then 0xFF else 0x00) ∧ u.port.ops.n2.toNat = value.toNat := by
        obtain ⟨hv1, h2⟩ | ⟨hv1, h2⟩ := hvalue
        · exact ⟨true, hv1, congrArg BitVec.toNat h2⟩
        · exact ⟨false, hv1, congrArg BitVec.toNat h2⟩
      rw [hv0, hv1] at hdata
      exact ⟨decodesAs_of_eq .wsbq (unmarshalSingleBit_eq_of_operands newWsbq hdata h0 h1 h2),
        decodesAs_of_eq .wsbs (unmarshalSingleBit_eq_of_operands newWsbs hdata h0 h1 h2)⟩
  -- WMBQ
  · exact (failsWith_unmarshalOf_iff .wmbq).2 (unmarshalMultiple_error_frameLen newWmbq h)
  · intro fc a1 a0 c1 c0 n values hdata
    refine ⟨fun h => ?_, fun h u h0 h1 h2 hvalues => ?_⟩
    · exact (failsWith_unmarshalOf_iff .wmbq).2 (unmarshalMultiple_error_byteCount newWmbq hdata h)
    · exact decodesAs_of_eq .wmbq (unmarshalMultiple_eq_of_operands newWmbq hdata h h0 h1 h2 hvalues)

end Sys2Proof.Machine
end

section
/-! PROOF. The six register constructors (R261, R265, R269, R273, R277, R281): the first failing check names the detail. -/

namespace Sys2Proof.Machine

section Checks

/-! With the function code in range, each later check by the detail it names. -/

variable {n0 n1 n2 : Nat} {data : Bytes} (hfc : FcIn n0)

include hfc

theorem newRrq_error_width (h : n1 > 0xFFFF ∨ n2 > 0xFFFF) : newRrq n0 n1 n2 = .error .width :=
  (if_neg (fcOk_of_fcIn hfc)).trans (if_pos h)

/-- The start alone or the end of the range passes the address limit: R261 answers both with the same detail. -/
theorem newRrq_error_addr (h1 : n1 ≤ 0xFFFF) (h2 : n2 ≤ 0xFFFF) (h : n1 + n2 > 0xFF) :
    newRrq n0 n1 n2 = .error .addr := by
  refine (if_neg (fcOk_of_fcIn hfc)).trans <| (if_neg (by omega)).trans ?_
  by_cases hstart : n1 > 0xFF
  · exact if_pos hstart
  · exact (if_neg hstart).trans (if_pos h)

/-- A response of 126 registers would not fit the largest PDU (R261, log entry 15). -/
theorem newRrq_error_count (hend : n1 + n2 ≤ 0xFF) (h : n2 > 125) : newRrq n0 n1 n2 = .error .count :=
  have hstart : ¬ n1 > 0xFF := by omega
  have hsize : 1 + 1 + 2 * n2 > Config.maxPdu := by rw [Config.maxPdu]; omega
  (if_neg (fcOk_of_fcIn hfc)).trans <| (if_neg (by omega)).trans <| (if_neg hstart).trans <|
    (if_neg (Nat.not_lt.2 hend)).trans (if_pos hsize)

theorem newRrs_error_len (h : data.length % 2 = 1 ∨ data.length > 250) : newRrs n0 data = .error .len := by
  refine (if_neg (fcOk_of_fcIn hfc)).trans ?_
  by_cases hodd : data.length % 2 ≠ 0
  · exact if_pos hodd
  · exact (if_neg hodd).trans (if_pos (h.resolve_left (by omega)))

theorem newSingleRegister_error_width (mk : Byte → U16 → Bytes → PDU) (h : n1 > 0xFFFF) :
    newSingleRegister mk n0 n1 data = .error .width :=
  (if_neg (fcOk_of_fcIn hfc)).trans (if_pos h)

theorem newSingleRegister_error_len (mk : Byte → U16 → Bytes → PDU) (h1 : n1 ≤ 0xFFFF) (h : data.length ≠ 2) :
    newSingleRegister mk n0 n1 data = .error .len :=
  (if_neg (fcOk_of_fcIn hfc)).trans <| (if_neg (Nat.not_lt.2 h1)).trans (if_pos h)

theorem newWmrq_error_width (h : n1 > 0xFFFF ∨ n2 > 0xFFFF) : newWmrq n0 n1 n2 data = .error .width :=
  (if_neg (fcOk_of_fcIn hfc)).trans (if_pos h)

theorem newWmrq_error_count (h1 : n1 ≤ 0xFFFF) (h2 : n2 ≤ 0xFFFF) (h : n2 < 1 ∨ n2 > 0x7B) :
    newWmrq n0 n1 n2 data = .error .count :=
  (if_neg (fcOk_of_fcIn hfc)).trans <| (if_neg (by omega)).trans (if_pos h)

theorem newWmrq_error_len (h1 : n1 ≤ 0xFFFF) (hmin : 1 ≤ n2) (hmax : n2 ≤ 0x7B) (h : data.length ≠ 2 * n2) :
    newWmrq n0 n1 n2 data = .error .len :=
  have hcount : ¬ (n2 < 1 ∨ n2 > 0x7B) := by omega
  (if_neg (fcOk_of_fcIn hfc)).trans <| (if_neg (by omega)).trans <| (if_neg hcount).trans (if_pos h)

end Checks

/-- Settles O16: the function-code check of all six, then each constructor's checks in their order. -/
theorem registerConstructorsValidate : Obligations.RegisterConstructorsValidate := by
  refine ⟨rfl, rfl, rfl, rfl, rfl, rfl, ?_⟩
  rintro s n0 n1 n2 data rfl rfl rfl rfl
  refine ⟨fun hfc i hi => ?_, fun hfc => ⟨?_, ?_, ?_, ?_, ?_, ?_, ?_, ?_, ?_, ?_, ?_, ?_, ?_, ?_, ?_⟩⟩
  case refine_1 =>
    obtain ⟨v, hv, rfl⟩ :=
      List.mem_map.1 (show i ∈ [Variant.rrq, .rrs, .wsrq, .wsrs, .wmrq, .wmrs].map Instr.newOf from hi)
    exact (failsWith_newOf_iff v).2
      (construct_error_fc (ne_of_mem_of_not_mem hv (by decide)) (ne_of_mem_of_not_mem hv (by decide)) hfc)
  -- RRQ
  · exact fun h => (failsWith_newOf_iff .rrq).2 (newRrq_error_width hfc h)
  · exact fun h1 h2 h => (failsWith_newOf_iff .rrq).2 (newRrq_error_addr hfc h1 h2 h)
  · exact fun hend h => (failsWith_newOf_iff .rrq).2 (newRrq_error_count hfc hend h)
  · exact fun hend h => (yieldsPdu_newOf_iff (v := .rrq)).2 (newRrq_ok.2 ⟨hfc, hend, h, rfl⟩)
  -- RRS
  · exact fun h => (failsWith_newOf_iff .rrs).2 (newRrs_error_len hfc h)
  · exact fun heven h => (yieldsPdu_newOf_iff (v := .rrs)).2 (newRrs_ok.2 ⟨hfc, heven, h, rfl⟩)
  -- WSRQ and WSRS
  · exact fun h => ⟨(failsWith_newOf_iff .wsrq).2 (newSingleRegister_error_width hfc .wsrq h),
      (failsWith_newOf_iff .wsrs).2 (newSingleRegister_error_width hfc .wsrs h)⟩
  · exact fun h1 h => ⟨(failsWith_newOf_iff .wsrq).2 (newSingleRegister_error_len hfc .wsrq h1 h),
      (failsWith_newOf_iff .wsrs).2 (newSingleRegister_error_len hfc .wsrs h1 h)⟩
  · exact fun h1 h => ⟨(yieldsPdu_newOf_iff (v := .wsrq)).2 (newSingleRegister_ok.2 ⟨hfc, h1, h, rfl⟩),
      (yieldsPdu_newOf_iff (v := .wsrs)).2 (newSingleRegister_ok.2 ⟨hfc, h1, h, rfl⟩)⟩
  -- WMRQ
  · exact fun h => (failsWith_newOf_iff .wmrq).2 (newWmrq_error_width hfc h)
  · exact fun h1 h2 h => (failsWith_newOf_iff .wmrq).2 (newWmrq_error_count hfc h1 h2 h)
  · exact fun h1 hmin hmax h => (failsWith_newOf_iff .wmrq).2 (newWmrq_error_len hfc h1 hmin hmax h)
  · exact fun h1 hmin hmax h => (yieldsPdu_newOf_iff (v := .wmrq)).2 (newWmrq_ok.2 ⟨hfc, h1, hmin, hmax, h, rfl⟩)
  -- WMRS
  · exact fun h => (failsWith_newOf_iff .wmrs).2 (newEcho_error_width hfc .wmrs h)
  · exact fun h1 h2 => (yieldsPdu_newOf_iff (v := .wmrs)).2 (newEcho_ok.2 ⟨hfc, h1, h2, rfl⟩)

end Sys2Proof.Machine
end

section
/-! PROOF. The register, exception and raw decoders (R263, R267, R271, R275, R279, R283, R323, R327): length and byte count,
then the constructor. -/

namespace Sys2Proof.Machine

section Shapes

variable {data : Bytes} {fc a1 a0 v1 v0 e x : Byte} {o : Operands}

/-! ### The five-byte shape of one register -/

theorem unmarshalSingleRegister_error_frameLen (mk : Nat → Nat → Bytes → Except Detail PDU) (h : data.length ≠ 5) :
    unmarshalSingleRegister mk data = .error .frameLen := by
  unfold unmarshalSingleRegister
  split
  next => exact absurd rfl h
  next => rfl

theorem unmarshalSingleRegister_eq_of_operands (mk : Nat → Nat → Bytes → Except Detail PDU)
    (hdata : data = [fc, a1, a0, v1, v0]) (h0 : o.n0.toNat = fc.toNat) (h1 : o.n1.toNat = a1.toNat * 256 + a0.toNat)
    (hvalue : o.data = [v1, v0]) : unmarshalSingleRegister mk data = mk o.i0 o.i1 o.data := by
  rw [hdata, Operands.i0, Operands.i1, h0, h1, hvalue, ← rd16_toNat]
  rfl

/-! ### The two-byte shape of an exception -/

theorem unmarshalExcBytes_error_frameLen (h : data.length ≠ 2) : unmarshalExcBytes data = .error .frameLen := by
  unfold unmarshalExcBytes
  split
  next => exact absurd rfl h
  next => rfl

theorem unmarshalExcBytes_eq_of_operands (hdata : data = [e, x]) (h0 : o.n0.toNat = e.toNat)
    (h1 : o.n1.toNat = x.toNat) : unmarshalExcBytes data = newExc o.i0 o.i1 := by
  rw [hdata, Operands.i0, Operands.i1, h0, h1]
  rfl

end Shapes

/-- Settles O23: each wire shape's checks in their order, then the construction from the operands it reads; RAW has no check
of its own (R327). -/
theorem registerDecodersCheckLengthThenConstruct : Obligations.RegisterDecodersCheckLengthThenConstruct := by
  refine ⟨rfl, rfl, rfl, rfl, rfl, rfl, rfl, rfl, fun s =>
    ⟨fun h => ?_, ?_, fun h => ?_, ?_, fun h => ?_, ?_, fun h => ?_, ?_, fun h => ?_, ?_, fun u hdata => ?_⟩⟩
  -- RRQ and WMRS
  · exact ⟨(failsWith_unmarshalOf_iff .rrq).2 (unmarshalTwoWords_error_frameLen newRrq h),
      (failsWith_unmarshalOf_iff .wmrs).2 (unmarshalTwoWords_error_frameLen newWmrs h)⟩
  · intro fc a1 a0 c1 c0 u hdata h0 h1 h2
    exact ⟨decodesAs_of_eq .rrq (unmarshalTwoWords_eq_of_operands newRrq hdata h0 h1 h2),
      decodesAs_of_eq .wmrs (unmarshalTwoWords_eq_of_operands newWmrs hdata h0 h1 h2)⟩
  -- RRS
  · exact (failsWith_unmarshalOf_iff .rrs).2 (unmarshalCounted_error_frameLen newRrs h)
  · intro fc n values hdata
    refine ⟨fun h => ?_, fun h u h0 hvalues => ?_⟩
    · exact (failsWith_unmarshalOf_iff .rrs).2 (unmarshalCounted_error_byteCount newRrs hdata h)
    · exact decodesAs_of_eq .rrs (unmarshalCounted_eq_of_operands newRrs hdata h h0 hvalues)
  -- WSRQ and WSRS
  · exact ⟨(failsWith_unmarshalOf_iff .wsrq).2 (unmarshalSingleRegister_error_frameLen newWsrq h),
      (failsWith_unmarshalOf_iff .wsrs).2 (unmarshalSingleRegister_error_frameLen newWsrs h)⟩
  · intro fc a1 a0 v1 v0 u hdata h0 h1 hvalue
    exact ⟨decodesAs_of_eq .wsrq (unmarshalSingleRegister_eq_of_operands newWsrq hdata h0 h1 hvalue),
      decodesAs_of_eq .wsrs (unmarshalSingleRegister_eq_of_operands newWsrs hdata h0 h1 hvalue)⟩
  -- WMRQ
  · exact (failsWith_unmarshalOf_iff .wmrq).2 (unmarshalMultiple_error_frameLen newWmrq h)
  · intro fc a1 a0 c1 c0 n values hdata
    refine ⟨fun h => ?_, fun h u h0 h1 h2 hvalues => ?_⟩
    · exact (failsWith_unmarshalOf_iff .wmrq).2 (unmarshalMultiple_error_byteCount newWmrq hdata h)
    · exact decodesAs_of_eq .wmrq (unmarshalMultiple_eq_of_operands newWmrq hdata h h0 h1 h2 hvalues)
  -- EXC
  · exact (failsWith_unmarshalOf_iff .exc).2 (unmarshalExcBytes_error_frameLen h)
  · intro e x u hdata h0 h1
    exact decodesAs_of_eq .exc (unmarshalExcBytes_eq_of_operands hdata h0 h1)
  -- RAW
  · exact decodesAs_of_eq .raw (congrArg newRaw hdata.symm)

end Sys2Proof.Machine
end

section
/-! PROOF. The exception and the raw constructor (R321, R325): the first failing check names the detail. -/

namespace Sys2Proof.Machine

theorem newExc_error_errCode {n0 n1 : Nat} (h : n0 ≤ 0x80 ∨ n0 > 0xFF) : newExc n0 n1 = .error .errCode :=
  if_pos h

theorem newExc_error_exCode {n0 n1 : Nat} (hmin : 0x80 < n0) (hmax : n0 ≤ 0xFF) (h : n1 < 1 ∨ n1 > 0xFF) :
    newExc n0 n1 = .error .exCode :=
  (if_neg (by omega)).trans (if_pos h)

theorem newRaw_error_len {data : Bytes} (h : data.length < 2) : newRaw data = .error .len := by
  unfold newRaw
  split
  next => simp only [List.length_cons] at h; omega
  next => rfl

/-- Settles O17: the error code is checked before the exception code, and a raw PDU needs two bytes. -/
theorem exceptionAndRawConstructorsValidate : Obligations.ExceptionAndRawConstructorsValidate := by
  refine ⟨rfl, rfl, ?_⟩
  rintro s n0 n1 rfl rfl
  refine ⟨?_, ?_, ?_, ?_, ?_⟩
  -- EXC
  · exact fun h => (failsWith_newOf_iff .exc).2 (newExc_error_errCode h)
  · exact fun hmin hmax h => (failsWith_newOf_iff .exc).2 (newExc_error_exCode hmin hmax h)
  · exact fun hmin hmax h1 h2 => (yieldsPdu_newOf_iff (v := .exc)).2 (newExc_ok.2 ⟨hmin, hmax, h1, h2, rfl⟩)
  -- RAW
  · exact fun h => (failsWith_newOf_iff .raw).2 (newRaw_error_len h)
  · exact fun b0 b1 rest h => (yieldsPdu_newOf_iff (v := .raw)).2 (newRaw_ok.2 ⟨b0, b1, rest, h, rfl⟩)

end Sys2Proof.Machine
end

section
/-! PROOF. Reinterpretation and response decoding (R330, R331), which hand a PDU's wire bytes to a decoder, and the function code
at the head of those bytes (R339). -/

namespace Sys2Proof.Machine

theorem exec_reinterpretOf (v : Variant) (s : State) :
    exec (Instr.reinterpretOf v) s = answerDecode (unmarshalAs v s.ops.pdu.marshal) s := by
  cases v <;> rfl

/-- The decoder a word names depends on the variant alone, so a command that runs it on the same bytes has its result. -/
theorem answerDecode_of_exec_unmarshalOf {v : Variant} {u : State} {r : Result} {data : Bytes} (s : State)
    (hdata : u.port.ops.data = data) (h : exec (Instr.unmarshalOf v) u = .next (u.answer r)) :
    answerDecode (unmarshalAs v data) s = .next (s.answer r) := by
  rw [exec_unmarshalOf, answerDecode, Host.Outcome.next.injEq, State.answer_inj] at h
  subst hdata h
  rfl

theorem answerDecode_of_ok {x : Except Detail PDU} {p : PDU} (s : State) (h : x = .ok p) :
    answerDecode x s = .next (s.answer (Result.okPdu p)) := by
  subst h
  rfl

/-- Every layout of R121 has two bytes or more, which is all that RAW asks for (R325). -/
theorem PDU.marshal_two_bytes (p : PDU) : ∃ b0 b1 rest, p.marshal = b0 :: b1 :: rest := by
  cases p <;> exact ⟨_, _, _, rfl⟩

/-- Settles O24: `REINTERPRET.<V>` runs the decoder of `<V>` on the source's wire bytes, which accepts those of its own
variant; the raw decoder accepts any. -/
theorem reinterpretMarshalsThenUnmarshals : Obligations.ReinterpretMarshalsThenUnmarshals := by
  refine ⟨fun v => ?_, fun v s u r hdata h => ?_, fun s hvalid => ?_, fun s _ => ?_⟩
  · refine ⟨v.ctorIdx, ?_⟩
    cases v <;> exact ⟨rfl, rfl⟩
  · exact (exec_reinterpretOf v s).trans (answerDecode_of_exec_unmarshalOf s hdata h)
  · have hown := unmarshalAs_eq_ok_iff.2 ⟨rfl, hvalid, rfl⟩
    exact (exec_reinterpretOf _ s).trans (answerDecode_of_ok s hown)
  · obtain ⟨b0, b1, rest, hwire⟩ := s.port.ops.pdu.marshal_two_bytes
    have hraw := newRaw_ok.2 ⟨b0, b1, rest, hwire, rfl⟩
    exact ⟨b0, b1, rest, hwire, (exec_reinterpretOf .raw s).trans (answerDecode_of_ok s hraw)⟩

/-! ### The exception convention -/

theorem PDU.functionCode_of_marshal {p : PDU} {b : Byte} {rest : Bytes} (h : p.marshal = b :: rest) :
    p.functionCode = b := by
  obtain ⟨rest', hhead⟩ := p.marshal_head
  exact (List.cons.inj (hhead.symm.trans h)).1

/-- The decoder that `DECODE_RESPONSE` chooses for a response whose byte 0 is `b` (R331). -/
theorem decodeResponsePdu_of_request {request response : PDU} {v : Variant} {b : Byte} {rest : Bytes}
    (hv : responseVariant request.variant = some v) (hwire : response.marshal = b :: rest) :
    decodeResponsePdu request response =
      unmarshalAs (if b = request.functionCode ||| 0x80 then .exc else v) (b :: rest) := by
  simp only [decodeResponsePdu, hv, PDU.functionCode_of_marshal hwire, hwire]
  exact (apply_ite (unmarshalAs · (b :: rest)) _ _ _).symm

theorem responseVariant_of_not_request {v : Variant}
    (h : v ∈ [Variant.rbs, .wsbs, .wmbs, .rrs, .wsrs, .wmrs, .exc, .raw]) : responseVariant v = none := by
  cases v
  case rbs | wsbs | wmbs | rrs | wsrs | wmrs | exc | raw => rfl
  all_goals exact absurd h (by decide)

/-- The request variants and their response variants, as R331 pairs them. -/
theorem responseVariant_of_pair {request response : Variant}
    (h : (request, response) ∈ [(Variant.rbq, Variant.rbs), (.wsbq, .wsbs), (.wmbq, .wmbs), (.rrq, .rrs), (.wsrq, .wsrs),
      (.wmrq, .wmrs)]) : responseVariant request = some response := by
  simp only [List.mem_cons, Prod.mk.injEq, List.not_mem_nil, or_false] at h
  obtain ⟨rfl, rfl⟩ | ⟨rfl, rfl⟩ | ⟨rfl, rfl⟩ | ⟨rfl, rfl⟩ | ⟨rfl, rfl⟩ | ⟨rfl, rfl⟩ := h <;> rfl

/-- Settles O25: byte 0 of the wire bytes is the response's function code, so the command runs the decoder that the
convention names on them. -/
theorem decodeResponseAppliesTheExceptionConvention : Obligations.DecodeResponseAppliesTheExceptionConvention := by
  refine ⟨rfl, fun s fc b rest hwire => ⟨fun hrequest => ?_, ?_⟩⟩
  · have hnone : decodeResponsePdu s.port.ops.pdu s.port.ops.pdu2 = .error .noResponseShape := by
      rw [decodeResponsePdu, responseVariant_of_not_request hrequest]
    exact congrArg (answerDecode · s) hnone
  · rintro request response hpair rfl rfl
    have hdecode : exec .decodeResponse s = answerDecode (unmarshalAs _ (b :: rest)) s :=
      congrArg (answerDecode · s) (decodeResponsePdu_of_request (responseVariant_of_pair hpair) hwire)
    refine ⟨fun u r hdata h => ?_, fun p htag hvalid hmarshal => ?_⟩
    · have hname := apply_ite Instr.unmarshalOf (b = s.port.ops.pdu.functionCode ||| 0x80) .exc response
      exact hdecode.trans (answerDecode_of_exec_unmarshalOf s hdata (hname ▸ h))
    · exact hdecode.trans (answerDecode_of_ok s (unmarshalAs_eq_ok_iff.2 ⟨htag, hvalid, hmarshal⟩))

/-! ### The function code -/

/-- Settles O26: the function code by variant is `PDU.functionCode`, which every layout of R121 puts first. -/
theorem pduFcIsByteZeroOfTheWireBytes : Obligations.PduFcIsByteZeroOfTheWireBytes := by
  refine ⟨rfl, fun s => ?_⟩
  intro b
  have hb : b = s.port.ops.pdu.functionCode := by
    unfold b
    cases s.port.ops.pdu <;> rfl
  rw [hb]
  exact ⟨s.port.ops.pdu.marshal_head, rfl⟩

end Sys2Proof.Machine
end

section
/-! PROOF. Bit packing (R84, R335, R336): what each index of an unpacked list and of a packed byte holds. -/

namespace Sys2Proof.Machine

theorem bitsOfByte_length (b : Byte) : (bitsOfByte b).length = 8 := rfl

theorem unpackBits_cons (b : Byte) (rest : Bytes) : unpackBits (b :: rest) = bitsOfByte b ++ unpackBits rest :=
  List.flatMap_cons

theorem unpackBits_length (data : Bytes) : (unpackBits data).length = 8 * data.length := by
  induction data with
  | nil => rfl
  | cons b rest ih => rw [unpackBits_cons, List.length_append, bitsOfByte_length, ih, List.length_cons]; omega

theorem getElem?_bitsOfByte (b : Byte) {i : Nat} (hi : i < 8) : (bitsOfByte b)[i]? = some (b.getLsbD i) := by
  rw [bitsOfByte, List.getElem?_map, List.getElem?_range hi, Option.map_some]

/-- Index `i` of the unpacked bits is bit `i % 8` of byte `i / 8` (R335), and both are absent past the end. -/
theorem getElem?_unpackBits (data : Bytes) (i : Nat) :
    (unpackBits data)[i]? = (data[i / 8]?).map fun b => b.getLsbD (i % 8) := by
  induction data generalizing i with
  | nil => rfl
  | cons b rest ih =>
    rw [unpackBits_cons]
    by_cases hi : i < 8
    · rw [List.getElem?_append_left hi, getElem?_bitsOfByte b hi, Nat.div_eq_of_lt hi, Nat.mod_eq_of_lt hi]
      rfl
    · obtain ⟨j, rfl⟩ := Nat.exists_eq_add_of_le' (Nat.not_lt.1 hi)
      rw [List.getElem?_append_right (Nat.not_lt.1 hi), bitsOfByte_length, Nat.add_sub_cancel, ih,
        Nat.add_div_right j (by decide), Nat.add_mod_right, List.getElem?_cons_succ]

/-- A bit of a byte as a digit of its number. -/
theorem getLsbD_eq_digit (b : Byte) (k : Nat) : b.getLsbD k = decide (b.toNat / 2 ^ k % 2 = 1) :=
  Nat.testBit_eq_decide_div_mod_eq

theorem getLsbD_one_shiftLeft (n : Nat) {i : Nat} (hi : i < 8) : ((1 <<< n : Nat) : Byte).getLsbD i = decide (n = i) := by
  change (BitVec.ofNat 8 (1 <<< n)).getLsbD i = _
  rw [BitVec.getLsbD_ofNat, decide_eq_true hi, Bool.true_and, Nat.one_shiftLeft, Nat.testBit_two_pow]

/-- One round of the loop of R336: bit `n` is set when it is chosen, and the other bits stay. -/
theorem getLsbD_setBit (chosen : Bool) (acc : Byte) (n : Nat) {i : Nat} (hi : i < 8) :
    (if chosen = true then acc ||| ((1 <<< n : Nat) : Byte) else acc).getLsbD i =
      (acc.getLsbD i || chosen && decide (n = i)) := by
  cases chosen with
  | false => rw [if_neg Bool.false_ne_true, Bool.false_and, Bool.or_false]
  | true => rw [if_pos rfl, BitVec.getLsbD_or, getLsbD_one_shiftLeft n hi, Bool.true_and]

/-- The loop of R336 over the indices below `n` sets exactly the chosen bits below `n`. -/
theorem getLsbD_foldl_setBit (chosen : Nat → Bool) (n : Nat) {i : Nat} (hi : i < 8) :
    ((List.range n).foldl (fun (acc : Byte) k => if chosen k then acc ||| (1 <<< k) else acc) 0).getLsbD i =
      (decide (i < n) && chosen i) := by
  induction n with
  | zero => simp
  | succ n ih =>
    rw [List.range_succ, List.foldl_append, List.foldl_cons, List.foldl_nil, getLsbD_setBit _ _ n hi, ih]
    by_cases hn : n = i
    · subst hn
      simp
    · have hlt : i < n + 1 ↔ i < n := by omega
      simp [hn, hlt]

theorem getLsbD_packByte (bools : List Bool) (j : Nat) {k : Nat} (hk : k < 8) :
    (packByte bools j).getLsbD k = (bools[8 * j + k]?).getD false := by
  rw [packByte, getLsbD_foldl_setBit (fun k => bools.getD (8 * j + k) false) 8 hk, decide_eq_true hk, Bool.true_and,
    List.getD_eq_getElem?_getD]

theorem packBits_length (bools : List Bool) : (packBits bools).length = packedLen bools.length := by
  rw [packBits, List.length_map, List.length_range]

theorem getElem?_packBits {bools : List Bool} {j : Nat} (hj : j < (packBits bools).length) :
    (packBits bools)[j]? = some (packByte bools j) := by
  rw [packBits_length] at hj
  rw [packBits, List.getElem?_map, List.getElem?_range hj, Option.map_some]

/-- Packing then unpacking pads the bits with false to whole bytes (R336). -/
theorem unpackBits_packBits (bools : List Bool) :
    unpackBits (packBits bools) =
      bools ++ List.replicate (8 * (packBits bools).length - bools.length) false := by
  obtain ⟨hcover, -⟩ := (packedLen_iff ..).1 (packBits_length bools)
  refine List.ext_getElem? fun i => ?_
  rw [getElem?_unpackBits]
  by_cases hi : i / 8 < (packBits bools).length
  · rw [getElem?_packBits hi, Option.map_some, getLsbD_packByte bools _ (Nat.mod_lt i (by decide)), Nat.div_add_mod]
    by_cases hin : i < bools.length
    · rw [List.getElem?_append_left hin, List.getElem?_eq_getElem hin, Option.getD_some]
    · have hpad : i - bools.length < 8 * (packBits bools).length - bools.length := by omega
      rw [List.getElem?_append_right (Nat.not_lt.1 hin), List.getElem?_replicate_of_lt hpad,
        List.getElem?_eq_none (Nat.not_lt.1 hin), Option.getD_none]
  · have hlen : (bools ++ List.replicate (8 * (packBits bools).length - bools.length) false).length ≤ i := by
      rw [List.length_append, List.length_replicate]
      omega
    rw [List.getElem?_eq_none (Nat.not_lt.1 hi), List.getElem?_eq_none hlen, Option.map_none]

/-- Settles O27: index by index, and the round trip from the two index laws. -/
theorem bitPackingIsLsbFirst : Obligations.BitPackingIsLsbFirst := by
  refine ⟨rfl, rfl, fun s => ⟨⟨unpackBits s.ops.data, rfl, unpackBits_length _, fun i _ => ?_⟩,
    packBits s.ops.bools, rfl, ?_⟩⟩
  · simp only [getElem?_unpackBits, getLsbD_eq_digit]
  · obtain ⟨hcover, htight⟩ := (packedLen_iff ..).1 (packBits_length s.ops.bools)
    refine ⟨hcover, htight, fun j k hj hk => ?_, fun u hdata => ?_⟩
    · rw [getElem?_packBits hj, Option.map_some, getLsbD_packByte _ _ hk]
    · rw [← unpackBits_packBits, ← hdata]
      rfl

end Sys2Proof.Machine
end

section
/-! PROOF. Register payloads as words and as word-swapped binary32 patterns (R83, R337, R338). -/

namespace Sys2Proof.Machine

theorem wordsOf_length (data : Bytes) : (wordsOf data).length = data.length / 2 := by
  match data with
  | [] => rfl
  | [_] => simp [wordsOf]
  | hi :: lo :: rest => rw [wordsOf, List.length_cons, wordsOf_length rest, List.length_cons, List.length_cons]; omega

/-- Word `k` of a payload is its bytes `2k` and `2k + 1`, the first the most significant (R83). -/
theorem getElem?_wordsOf {data : Bytes} {k : Nat} {hi lo : Byte} (hhi : data[2 * k]? = some hi)
    (hlo : data[2 * k + 1]? = some lo) : (wordsOf data)[k]? = some (rd16 hi lo) := by
  match data, k with
  | [], _ => contradiction
  | [_], _ => contradiction
  | _ :: _ :: _, 0 =>
    cases hhi
    cases hlo
    rfl
  | _ :: _ :: rest, _ + 1 => exact getElem?_wordsOf (data := rest) hhi hlo

theorem floatsOf_length (ws : List U16) : (floatsOf ws).length = ws.length / 2 := by
  match ws with
  | [] => rfl
  | [_] => simp [floatsOf]
  | low :: high :: rest => rw [floatsOf, List.length_cons, floatsOf_length rest, List.length_cons, List.length_cons]; omega

/-- Pattern `j` of a word list is its words `2j` and `2j + 1`, the first the low-order one (R338). -/
theorem getElem?_floatsOf {ws : List U16} {j : Nat} {low high : U16} (hlow : ws[2 * j]? = some low)
    (hhigh : ws[2 * j + 1]? = some high) : (floatsOf ws)[j]? = some (high ++ low) := by
  match ws, j with
  | [], _ => contradiction
  | [_], _ => contradiction
  | _ :: _ :: _, 0 =>
    cases hlow
    cases hhigh
    rfl
  | _ :: _ :: rest, _ + 1 => exact getElem?_floatsOf (ws := rest) hlow hhigh

theorem rd16_eq_ofNat (hi lo : Byte) : rd16 hi lo = BitVec.ofNat 16 (hi.toNat * 256 + lo.toNat) := by
  rw [← rd16_toNat, BitVec.ofNat_toNat, BitVec.setWidth_eq]

/-- A pattern as a number, its four bytes in the order of the payload (R338). -/
theorem rd16_append_rd16 (b0 b1 b2 b3 : Byte) :
    (rd16 b2 b3 ++ rd16 b0 b1 : U32) =
      BitVec.ofNat 32 (b2.toNat * 2 ^ 24 + b3.toNat * 2 ^ 16 + b0.toNat * 2 ^ 8 + b1.toNat) := by
  apply BitVec.eq_of_toNat_eq
  have hlow := (rd16 b0 b1).isLt
  rw [BitVec.toNat_append, ← Nat.shiftLeft_add_eq_or_of_lt hlow, Nat.shiftLeft_eq, rd16_toNat, rd16_toNat,
    BitVec.toNat_ofNat]
  omega

/-- Settles O28: the length test of each command, and the index law of its list. -/
theorem registerPayloadsDecodeToWordsAndFloats : Obligations.RegisterPayloadsDecodeToWordsAndFloats := by
  refine ⟨rfl, rfl, fun s => ⟨fun h => if_pos h, fun h => if_pos h, fun h => ?_, fun h => ?_⟩⟩
  · refine ⟨wordsOf s.port.ops.data, if_neg (not_not.2 h), ?_, fun k b0 b1 h0 h1 => ?_⟩
    · rw [wordsOf_length]
      omega
    · rw [← rd16_eq_ofNat]
      exact getElem?_wordsOf h0 h1
  · refine ⟨floatsOf (wordsOf s.port.ops.data), if_neg (not_not.2 h), ?_, fun j b0 b1 b2 b3 h0 h1 h2 h3 => ?_⟩
    · rw [floatsOf_length, wordsOf_length]
      omega
    · have hindex : 4 * j = 2 * (2 * j) := by omega
      rw [hindex] at h0 h1 h2 h3
      rw [← rd16_append_rd16]
      exact getElem?_floatsOf (getElem?_wordsOf h0 h1) (getElem?_wordsOf h2 h3)

end Sys2Proof.Machine
end

section
/-! PROOF. The control and status registers (R36 to R44, R345, R346). -/

namespace Sys2Proof.Machine

/-! ### The words -/

/-- A command word put together by shift and OR (R110). -/
theorem or_eq_commandWord (op arg : Byte) : arg.setWidth 32 <<< 8 ||| op.setWidth 32 = commandWord op arg := by
  have hop := op.isLt
  have harg := arg.isLt
  apply BitVec.eq_of_toNat_eq
  rw [commandWord_toNat, BitVec.toNat_or, BitVec.toNat_shiftLeft, BitVec.toNat_setWidth_of_le (by decide),
    BitVec.toNat_setWidth_of_le (by decide), Nat.shiftLeft_eq, Nat.mod_eq_of_lt (by omega), ← Nat.shiftLeft_eq,
    ← Nat.shiftLeft_add_eq_or_of_lt hop, Nat.shiftLeft_eq]

/-- The word of a command that takes an argument decodes to that command with that argument (R115). -/
theorem decodeCommand_of_argCommand {op arg : Byte} {i : Instr} (h : argCommand op.toNat arg = some i) :
    decodeCommand (arg.setWidth 32 <<< 8 ||| op.setWidth 32) = .ok i := by
  rw [or_eq_commandWord]
  exact decodeCommand_of_inTable (commandWord_rsv op arg) (.inl (by rwa [commandWord_op, commandWord_arg]))

/-! ### The values -/

/-- The three bits of `STAT_TCP`, by their weights (R40). -/
theorem bits3_eq_ofNat (b2 b1 b0 : Bool) :
    (BitVec.ofBool b2 ++ BitVec.ofBool b1 ++ BitVec.ofBool b0 : BitVec 3).setWidth 32 =
      BitVec.ofNat 32 ((if b0 then 1 else 0) + (if b1 then 2 else 0) + (if b2 then 4 else 0)) := by
  revert b2 b1 b0
  decide

/-- The four bits of `STAT_FAULT`, by their weights (R43). -/
theorem bits4_eq_ofNat (b3 b2 b1 b0 : Bool) :
    (BitVec.ofBool b3 ++ BitVec.ofBool b2 ++ BitVec.ofBool b1 ++ BitVec.ofBool b0 : BitVec 4).setWidth 32 =
      BitVec.ofNat 32
        ((if b0 then 1 else 0) + (if b1 then 2 else 0) + (if b2 then 4 else 0) + (if b3 then 8 else 0)) := by
  revert b3 b2 b1 b0
  decide

theorem csrValue_of_reserved {csr : Byte} (s : State) (h : csr.toNat > 7) : csrValue csr s = none := by
  unfold csrValue
  split
  case h_9 => rfl
  all_goals omega

theorem csrUpdate_of_readOnly {csr : Byte} (v : U32) (s : State) (h : csr.toNat > 1) : csrUpdate csr v s = none := by
  unfold csrUpdate
  split
  case h_3 => rfl
  all_goals omega

/-! ### The commands -/

theorem exec_csrRead_of_value {csr : Byte} {s : State} {v : U32} (h : csrValue csr s = some v) :
    exec (.csrRead csr) s = .next (s.answer (Result.okValue v)) := by
  simp only [exec, execCsrRead, h]

theorem failsWith_csrRead {csr : Byte} {s : State} (h : csrValue csr s = none) :
    FailsWith (.csrRead csr) s .errIllegalOp .csr := by
  simp only [FailsWith, exec, execCsrRead, h]

theorem failsWith_csrWrite {csr : Byte} {s : State} (h : csrUpdate csr s.ops.n0 s = none) :
    FailsWith (.csrWrite csr) s .errIllegalOp .csr := by
  simp only [FailsWith, exec, execCsrWrite, h]

/-! ### The pending count -/

/-- A canonical map with its keys from `lo` up to `n` has no more entries than that range has numbers. -/
theorem Assoc.length_le_of_keys {α : Type} {n : Nat} (m : Assoc α) (lo : Nat) (hw : m.wf = true)
    (hkeys : ∀ e ∈ m, lo ≤ e.1 ∧ e.1 < n) : m.length ≤ n - lo := by
  induction m generalizing lo with
  | nil => exact Nat.zero_le _
  | cons e rest ih =>
    obtain ⟨k, v⟩ := e
    obtain ⟨hrest, hw⟩ := (Assoc.wf_cons k v rest).1 hw
    obtain ⟨hlo, hn⟩ := hkeys (k, v) List.mem_cons_self
    have hlen := ih (k + 1) hw fun e he => ⟨hrest e he, (hkeys e (List.mem_cons_of_mem _ he)).2⟩
    rw [List.length_cons]
    omega

theorem MapsOk.pending_length_le {s : State} (hs : MapsOk s) : s.tcpMap.length ≤ 65536 :=
  Assoc.length_le_of_keys s.tcpMap 0 hs.pendingCanonical fun e he => ⟨Nat.zero_le _, hs.pendingKeys e he⟩

/-- Settles O29: each register's value as a number, and no other register is read or written. -/
theorem csrAccessReadsStatusAndWritesTimeouts : Obligations.CsrAccessReadsStatusAndWritesTimeouts := by
  refine ⟨fun a => ⟨decodeCommand_of_argCommand (op := 0x80) rfl, decodeCommand_of_argCommand (op := 0x81) rfl⟩,
    fun s => ?_⟩
  intro reads
  have readsOf {csr : Byte} {n : Nat} (h : csrValue csr s = some (BitVec.ofNat 32 n)) : reads csr n :=
    exec_csrRead_of_value h
  refine ⟨readsOf ?_, readsOf ?_, readsOf ?_, readsOf ?_, readsOf ?_, readsOf rfl, MapsOk.pending_length_le, readsOf ?_,
    readsOf ?_, fun csr h => failsWith_csrRead (csrValue_of_reserved s h), rfl, rfl,
    fun csr h => failsWith_csrWrite (csrUpdate_of_readOnly _ s h)⟩
  · exact congrArg some ((BitVec.ofNat_toNat ..).trans (BitVec.setWidth_eq _)).symm
  · exact congrArg some ((BitVec.ofNat_toNat ..).trans (BitVec.setWidth_eq _)).symm
  · change some (statRtu s) = _
    rw [statRtu]
    cases s.rtuPhase <;> rfl
  · refine congrArg some ((bits3_eq_ofNat ..).trans ?_)
    simp only [decide_eq_true_eq]
  · exact congrArg some (BitVec.ofNat_toNat ..).symm
  · exact congrArg some (bits4_eq_ofNat ..)
  · change some (statTcpFatal s) = _
    rw [statTcpFatal]
    cases s.tcpFatal <;> rfl

end Sys2Proof.Machine
end

section
/-! PROOF. The serial transport's commands (R360, R375) and the framer's steps (R362, R366 to R370), outcome by outcome. -/

namespace Sys2Proof.Machine

/-! ### The commands -/

section Commands

variable {s : State}

theorem exec_rtuWriteRequest_idle (h : s.rtuPhase = .idle) (a : Byte) :
    exec (.rtuWriteRequest a) s = .next { s with
      rtuHost := some s.port.host
      rtuAddr := a
      rtuTx := rtuFrame a s.ops.pdu.marshal
      rtuRx := []
      rtuNeed := 0
      rtuPhase := .send } := by
  simp only [exec, execRtuWriteRequest, h, reduceCtorEq, if_false, ne_eq, not_true]

theorem failsWith_rtuWriteRequest_closed (h : s.rtuPhase = .closed) (a : Byte) :
    FailsWith (.rtuWriteRequest a) s .errClosed .closed := if_pos h

theorem exec_rtuWriteRequest_busy (hidle : s.rtuPhase ≠ .idle) (hclosed : s.rtuPhase ≠ .closed) (a : Byte) :
    exec (.rtuWriteRequest a) s = .next (s.raise .fRtuBusy) := (if_neg hclosed).trans (if_pos hidle)

theorem exec_rtuClose_idle (h : s.rtuPhase = .idle) :
    exec .rtuClose s =
      .next (State.answer (closeResult s.port.draw) { s with serOpen := false, rtuPhase := .closed }) := by
  simp only [exec, execRtuClose, h, reduceCtorEq, if_false, ne_eq, not_true]

theorem exec_rtuClose_closed (h : s.rtuPhase = .closed) :
    exec .rtuClose s = .next (s.answer (closeAgainResult (Result.err .errClosed .closed) s.port.draw)) := if_pos h

theorem exec_rtuClose_busy (hidle : s.rtuPhase ≠ .idle) (hclosed : s.rtuPhase ≠ .closed) :
    exec .rtuClose s = .next (s.raise .fRtuBusy) := (if_neg hclosed).trans (if_pos hidle)

end Commands

/-- Every member of a set is drawn by some natural (R17). -/
theorem exists_drawFrom_eq {α : Type} {r x : α} {others : List α} (h : r ∈ x :: others) :
    ∃ d, drawFrom d x others = r := by
  obtain ⟨d, hd, rfl⟩ := List.getElem_of_mem h
  refine ⟨d, ?_⟩
  rw [drawFrom, ← List.length_cons (a := x), Nat.mod_eq_of_lt hd, List.getD_eq_getElem _ _ hd]

/-- Settles O39: the three phases that the request tells apart. -/
theorem rtuWriteRequestStartsFailsOrFaults : Obligations.RtuWriteRequestStartsFailsOrFaults :=
  ⟨fun _ => decodeCommand_of_argCommand (op := 0x60) rfl, fun a _ =>
    ⟨(exec_rtuWriteRequest_idle · a), (failsWith_rtuWriteRequest_closed · a), (exec_rtuWriteRequest_busy · · a)⟩⟩

/-- Settles O40: what a close draws is a member of its set, and each member is drawn. -/
theorem rtuCloseDrawsItsResult : Obligations.RtuCloseDrawsItsResult := by
  refine ⟨rfl, ?_⟩
  intro first again closed
  refine ⟨fun s hidle => ⟨_, drawFrom_mem s.port.draw _ _, exec_rtuClose_idle hidle⟩, fun r hr => ?_,
    fun s hclosed => ⟨_, drawFrom_mem s.port.draw _ _, exec_rtuClose_closed hclosed⟩, fun r hr => ?_,
    fun s => exec_rtuClose_busy⟩
  · obtain ⟨d, hd⟩ := exists_drawFrom_eq hr
    refine ⟨d, fun s hdraw hidle => ?_⟩
    rw [exec_rtuClose_idle hidle, closeResult, hdraw, hd]
    rfl
  · obtain ⟨d, hd⟩ := exists_drawFrom_eq hr
    refine ⟨d, fun s hdraw hclosed => ?_⟩
    rw [exec_rtuClose_closed hclosed, closeAgainResult, hdraw, hd]

/-! ### The send step -/

section Send

variable {s : State} {h k : Nat} {ioerr : Bool}

/-- A write that did not succeed ends the request with the write's error (R362). -/
theorem rtuSend_of_writeError {out : Bytes} {o : WriteOutcome} {e : Result} (hhost : s.rtuHost = some h)
    (hwrite : streamWrite s.serOpen k ioerr s.rtuTx = (out, o)) (herror : writeError o = some e) :
    rtuSend k ioerr s =
      { s with serOut := s.serOut ++ out, rtuPhase := .idle, results := s.results.put h e } := by
  simp only [rtuSend, serWrite, hwrite, herror]
  exact rtuFinish_of_host (s := { s with serOut := s.serOut ++ out }) hhost e

/-- A full write appends the frame, and the request goes on from there (R362). -/
theorem rtuSend_of_full (hwrite : streamWrite s.serOpen k ioerr s.rtuTx = (s.rtuTx, .full)) :
    rtuSend k ioerr s = rtuSent { s with serOut := s.serOut ++ s.rtuTx } := by
  simp only [rtuSend, serWrite, hwrite, writeError]

end Send

/-- Settles O41: the write fails closed, by I/O error or short, or takes the whole frame of a broadcast or of a request. -/
theorem rtuSendStepFollowsTheWrite : Obligations.RtuSendStepFollowsTheWrite := by
  intro s h k ioerr hs hphase hhost ends
  have hrun : runEvent (.rtuSend k ioerr) s = .next (rtuSend k ioerr s) :=
    runEvent_fires hs (decide_eq_true hphase)
  have endsOf {out o e} (hwrite : streamWrite s.serOpen k ioerr s.rtuTx = (out, o)) (herror : writeError o = some e) :
      ends out e := hrun.trans (congrArg Host.Outcome.next (rtuSend_of_writeError hhost hwrite herror))
  have sent (hopen : s.serOpen = true) (hio : ioerr = false) (hk : s.rtuTx.length ≤ k) :
      runEvent (.rtuSend k ioerr) s = .next (rtuSent { s with serOut := s.serOut ++ s.rtuTx }) :=
    hrun.trans (congrArg Host.Outcome.next (rtuSend_of_full (by rw [hopen, hio]; exact streamWrite_full hk)))
  refine ⟨fun hclosed => endsOf (by rw [hclosed]; exact streamWrite_closed ..) rfl,
    fun hopen hio => endsOf (by rw [hopen, hio]; exact streamWrite_ioErr ..) rfl,
    fun hopen hio hk => endsOf (by rw [hopen, hio]; exact streamWrite_short hk) rfl,
    fun hopen hio hk haddr => ?_, fun hopen hio hk haddr => ?_⟩
  · refine (sent hopen hio hk).trans (congrArg Host.Outcome.next ((if_pos haddr).trans ?_))
    exact rtuFinish_of_host (s := { s with serOut := s.serOut ++ s.rtuTx }) hhost _
  · exact (sent hopen hio hk).trans (congrArg Host.Outcome.next (if_neg haddr))

/-! ### The read step -/

section Read

variable {s : State} (hs : Healthy s)

include hs

/-- The read step with a byte queued before the deadline (R366). -/
theorem runEvent_rtuRead {b : Byte} {bytes : Bytes} (hreading : s.rtuPhase.reading = true) (hin : s.serIn = b :: bytes)
    (hdeadline : s.now < s.rtuDeadline) :
    runEvent .rtuRead s =
      if s.rtuRx.length + 1 = s.rtuNeed then rtuPhaseDone (rtuTake b bytes s) else .next (rtuTake b bytes s) := by
  have henabled : eventEnabled .rtuRead s = true := by simp [eventEnabled, hreading, hin, hdeadline]
  rw [runEvent_fires hs henabled, ← rtuTake_length b bytes s, fireEvent, rtuRead, hin]

/-- The read that completes a response's header checks the address and runs the class of the function code (R367). -/
theorem runEvent_rtuRead_header {a fc : Byte} {bytes : Bytes} (hphase : s.rtuPhase = .hdr) (hneed : s.rtuNeed = 2)
    (hrx : s.rtuRx = [a]) (hin : s.serIn = fc :: bytes) (hdeadline : s.now < s.rtuDeadline) :
    runEvent .rtuRead s =
      if a ≠ s.rtuAddr then .next (rtuFinish (addrMismatch a) { s with serIn := bytes, rtuRx := [a, fc] })
      else exec (decodeRespFc fc) { s with serIn := bytes, rtuRx := [a, fc] } := by
  rw [runEvent_rtuRead hs (by rw [hphase]; rfl) hin hdeadline, if_pos (by rw [hrx, hneed]; rfl)]
  simp only [rtuTake, hrx, rtuPhaseDone, hphase, rtuHeaderDone, List.singleton_append]

/-- The read that completes a frame checks its CRC (R370). -/
theorem runEvent_rtuRead_body {body : Bytes} {lo hi : Byte} {bytes : Bytes} (hphase : s.rtuPhase = .body)
    (hneed : s.rtuNeed = body.length + 2) (hrx : s.rtuRx = body ++ [lo]) (hin : s.serIn = hi :: bytes)
    (hdeadline : s.now < s.rtuDeadline) :
    runEvent .rtuRead s = .next (rtuBodyDone { s with serIn := bytes, rtuRx := body ++ [lo, hi] }) := by
  rw [runEvent_rtuRead hs (by rw [hphase]; rfl) hin hdeadline,
    if_pos (by rw [hrx, hneed, List.length_append]; rfl)]
  simp only [rtuTake, hrx, rtuPhaseDone, hphase, List.append_assoc, List.singleton_append]

end Read

/-- Settles O4: the step is the framer's read, and the address behind which it reads is the right one. -/
theorem stepRunsTheResponseClass : Obligations.StepRunsTheResponseClass := by
  intro s fc bytes rest hscript hs hphase hneed hrx hin hdeadline
  have hread := runEvent_rtuRead_header (s := { s with script := rest }) hs hphase hneed hrx hin hdeadline
  exact (step_of_script hscript).trans (hread.trans (if_neg (not_not.2 rfl)))

/-- Settles O42: reading and expiring stand on the two sides of the deadline, and each way to end is one `rtuFinish`. -/
theorem rtuReadsUntilErrorDeadlineOrMismatch : Obligations.RtuReadsUntilErrorDeadlineOrMismatch := by
  intro s h hs hreading hhost ends
  have hfinish (r : Result) : Host.Outcome.next (rtuFinish r s) = (.next (ends r) : Answer) :=
    congrArg Host.Outcome.next (rtuFinish_of_host hhost r)
  refine ⟨fun hin => ?_, ?_, fun hexpired => ?_, fun b bytes hin hdeadline hmore => ?_,
    fun a b bytes hphase hneed hrx haddr hin hdeadline => ?_⟩
  · simp [eventEnabled, hreading, hin]
  · exact (runEvent_fires (e := .rtuReadError) hs hreading).trans (hfinish _)
  · exact (runEvent_fires hs (by simp [eventEnabled, hreading, hexpired])).trans (hfinish _)
  · exact (runEvent_rtuRead hs hreading hin hdeadline).trans (if_neg hmore)
  · refine ((runEvent_rtuRead_header hs hphase hneed hrx hin hdeadline).trans (if_pos haddr)).trans ?_
    exact congrArg Host.Outcome.next (rtuFinish_of_host (s := { s with serIn := bytes, rtuRx := [a, b] }) hhost _)

/-! ### The end of a frame -/

theorem le16_rd16 (hi lo : Byte) : le16 (rd16 hi lo) = [lo, hi] := congrArg List.reverse (be16_rd16 hi lo)

/-- A frame whose last two bytes are not the CRC of the others ends the request with both values (R370). -/
theorem rtuBodyDone_badCrc {s : State} {h : Nat} {body : Bytes} {lo hi : Byte} (hhost : s.rtuHost = some h)
    (hrx : s.rtuRx = body ++ [lo, hi]) (hcrc : rd16 hi lo ≠ crc16 body) :
    rtuBodyDone s = { s with
      rtuPhase := .idle, results := s.results.put h (badCrc (rd16 hi lo) (crc16 body) s.rtuRx) } := by
  have hsplit : s.rtuRx.length - 2 = body.length := by rw [hrx, List.length_append]; rfl
  have hbody : s.rtuRx.take (s.rtuRx.length - 2) = body := by rw [hsplit, hrx, List.take_left]
  have htail : s.rtuRx.drop (s.rtuRx.length - 2) = [lo, hi] := by rw [hsplit, hrx, List.drop_left]
  simp only [rtuBodyDone, hbody, htail]
  exact (if_pos hcrc).trans (rtuFinish_of_host hhost _)

/-- Settles O43: the last two bytes are the CRC of the others, and the frame is the `rtuFrame` of its PDU, or they are not. -/
theorem rtuFrameCompletesWithCrcCheck : Obligations.RtuFrameCompletesWithCrcCheck := by
  intro s h body lo hi bytes hs hphase hhost hdeadline hrx hin hneed _ got ends
  have hgot : got = rd16 hi lo := (rd16_eq_ofNat hi lo).symm
  have hread := runEvent_rtuRead_body hs hphase hneed hrx hin hdeadline
  rw [hgot]
  refine ⟨fun hcrc => ?_, fun hcrc a b0 b1 rest hbody => ?_⟩
  · exact hread.trans (congrArg Host.Outcome.next (rtuBodyDone_badCrc hhost rfl hcrc))
  · have hframe : body ++ [lo, hi] = rtuFrame a (b0 :: b1 :: rest) := by
      rw [rtuFrame, ← hbody, ← hcrc, le16_rd16]
    exact hread.trans (congrArg Host.Outcome.next (rtuBodyDone_rtuFrame hhost hframe))

end Sys2Proof.Machine
end

section
/-! PROOF. Every step keeps every pending entry with its own waiter, waiting and unsignalled (R52, R56, R100, R410). -/

namespace Sys2Proof.Machine

variable {s t : State}

/-! ### Changes of the pending map and of one waiter slot -/

/-- `PendingOk` reads the pending map and the waiters only. -/
theorem PendingOk.congr (hs : PendingOk s) (hmap : t.tcpMap = s.tcpMap) (hwaiters : t.waiters = s.waiters) :
    PendingOk t := by
  obtain ⟨entries, unsignalled⟩ := hs
  constructor
  · simpa only [EntryOk, hmap, hwaiters] using entries
  · simpa only [hwaiters] using unsignalled

/-- An entry of another slot is untouched by a change of slot `c`. -/
theorem EntryOk.modifyOther {c k : Nat} {record : Pending} {f : Waiter → Waiter} (h : EntryOk s k record)
    (hc : record.waiter ≠ c) (hwaiters : t.waiters = s.waiters.modify c f) : EntryOk t k record := by
  obtain ⟨w, hw, hfields⟩ := h
  refine ⟨w, ?_, hfields⟩
  rw [hwaiters, List.getElem?_modify_ne _ _ (Ne.symm hc)]
  exact hw

/-- A slot that no remaining entry names may change, if it gets no signal before it is registered. -/
theorem PendingOk.modifyWaiter (hs : PendingOk s) {c : Nat} {f : Waiter → Waiter}
    (hmap : ∀ e ∈ t.tcpMap, e ∈ s.tcpMap ∧ e.2.waiter ≠ c) (hwaiters : t.waiters = s.waiters.modify c f)
    (hsignal : ∀ w, s.waiters[c]? = some w → (f w).phase = .check ∨ (f w).phase = .alloc ∨ (f w).phase = .reg →
      (f w).signal = none) : PendingOk t where
  entries e he := (hs.entries e (hmap e he).1).modifyOther (hmap e he).2 hwaiters
  unsignalled w hw hphase := by
    obtain ⟨d, hd⟩ := List.mem_iff_getElem?.1 hw
    rw [hwaiters, List.getElem?_modify] at hd
    obtain ⟨v, hv, rfl⟩ := Option.map_eq_some_iff.1 hd
    split at hphase
    next hcd =>
      subst hcd
      simpa using hsignal v hv hphase
    next hcd => simpa [hcd] using hs.unsignalled v (List.mem_of_getElem? hv) hphase

/-- The slot that an entry names waits under the entry's id, unsignalled. -/
theorem PendingOk.slot (hs : PendingOk s) {e : Nat × Pending} (he : e ∈ s.tcpMap) {w : Waiter}
    (hw : s.waiters[e.2.waiter]? = some w) : w.phase = .wait ∧ w.signal = none ∧ w.tid.toNat = e.1 := by
  obtain ⟨v, hv, hphase, hsignal, htid, -, -⟩ := hs.entries e he
  obtain rfl := Option.some.inj (hw.symm.trans hv)
  exact ⟨hphase, hsignal, htid⟩

/-- No entry names a slot that does not wait, or that is signalled. -/
theorem PendingOk.not_named (hs : PendingOk s) {c : Nat} {w : Waiter} (hw : s.waiters[c]? = some w)
    (h : w.phase ≠ .wait ∨ w.signal ≠ none) : ∀ e ∈ s.tcpMap, e ∈ s.tcpMap ∧ e.2.waiter ≠ c := by
  refine fun e he => ⟨he, ?_⟩
  rintro rfl
  obtain ⟨hphase, hsignal, -⟩ := hs.slot he hw
  exact h.elim (absurd hphase) (absurd hsignal)

/-- Once the entry of slot `c`'s own id is gone, no entry names the slot. -/
theorem PendingOk.not_named_del (hs : PendingOk s) {c : Nat} {w : Waiter} (hw : s.waiters[c]? = some w) :
    ∀ e ∈ s.tcpMap.del w.tid.toNat, e ∈ s.tcpMap ∧ e.2.waiter ≠ c := by
  intro e he
  obtain ⟨he, hne⟩ := (Assoc.mem_del ..).1 he
  refine ⟨he, ?_⟩
  rintro rfl
  obtain ⟨-, -, htid⟩ := hs.slot he hw
  exact hne htid.symm

/-! ### Completions -/

/-- A completion takes the entry out with the signal, so that no entry names the signalled slot (R410). -/
theorem PendingOk.complete (hs : PendingOk s) (tid : Nat) (r : Result) : PendingOk (complete tid r s) := by
  obtain ⟨-, heq⟩ | ⟨p, hget, heq⟩ := complete_cases tid r s <;> rw [heq]
  · exact hs
  · obtain ⟨w, hw, hphase, -, rfl, -, -⟩ := hs.entries _ (Assoc.mem_of_get _ hget)
    refine hs.modifyWaiter (c := p.waiter) (hs.not_named_del hw) rfl fun v hv hunregistered => ?_
    obtain rfl := Option.some.inj (hw.symm.trans hv)
    have hwaits : (w.signalled r).phase = .wait := hphase
    simp [hwaits] at hunregistered

theorem PendingOk.completeAll (hs : PendingOk s) (entries : Assoc Pending) (r : Result) :
    PendingOk (completeAll entries r s) := by
  induction entries generalizing s with
  | nil => exact hs
  | cons e rest ih => exact ih (hs.complete e.1 r)

theorem PendingOk.closeSweep (hs : PendingOk s) : PendingOk (closeSweep s) := by
  have hstopped : PendingOk { s with tcpClosed := true, tcpOpen := false, twState := .stop, trState := .rdStop } :=
    hs.congr rfl rfl
  exact (hstopped.completeAll s.tcpMap (closedError s.tcpFatal)).congr rfl rfl

theorem PendingOk.fatal (hs : PendingOk s) (cause : FatalCause) : PendingOk (fatal cause s) :=
  PendingOk.closeSweep (hs.congr rfl rfl)

/-! ### The loops -/

theorem PendingOk.writerStep (hs : PendingOk s) (k : Nat) (ioerr : Bool) : PendingOk (writerStep k ioerr s) := by
  match hq : s.tcpQueue with
  | [] => simpa only [Machine.writerStep, hq] using hs
  | q :: rest =>
    have hwritten (out : Bytes) : PendingOk { s with tcpQueue := rest, tcpOut := s.tcpOut ++ out } := hs.congr rfl rfl
    obtain heq | ⟨out, heq | ⟨r, -, heq⟩⟩ := writerStep_cases k ioerr hq <;> rw [heq]
    · exact hs.congr rfl rfl
    · exact hwritten out
    · exact (hwritten out).complete _ r

theorem PendingOk.readerByte (hs : PendingOk s) (b : Byte) : PendingOk (readerByte b s) := by
  obtain ⟨cause, heq⟩ | ⟨tid, r, heq⟩ | ⟨st, heq⟩ := readerByte_cases b s <;> rw [heq]
  · exact hs.fatal cause
  · exact (hs.complete tid r).congr rfl rfl
  · exact hs.congr rfl rfl

/-! ### The waiters -/

/-- Registration names a slot that waits unsignalled from then on, and that no other entry names (R405). -/
theorem PendingOk.register (hs : PendingOk s) {c : Nat} {w : Waiter} (hw : s.waiters[c]? = some w)
    (hphase : w.phase = .reg) (hmap : t.tcpMap = s.tcpMap.put w.tid.toNat { unit := w.unit, req := w.req, waiter := c })
    (hwaiters : t.waiters = s.waiters.modify c (Waiter.inPhase .wait)) : PendingOk t := by
  have hsignal : w.signal = none := hs.unsignalled w (List.mem_of_getElem? hw) (.inr (.inr hphase))
  have hothers := hs.not_named hw (.inl (by simp [hphase]))
  have hslot : PendingOk { t with tcpMap := s.tcpMap } := hs.modifyWaiter hothers hwaiters (by simp [Waiter.inPhase])
  refine ⟨fun e he => ?_, hslot.unsignalled⟩
  rw [hmap] at he
  obtain rfl | he := Assoc.mem_put _ _ _ _ he
  · exact ⟨w.inPhase .wait, by simp [hwaiters, hw], rfl, hsignal, rfl, rfl, rfl⟩
  · exact hslot.entries e he

theorem WaiterEffect.pendingOk {c : Nat} {w : Waiter} (h : WaiterEffect s c w t) (hs : PendingOk s)
    (hw : s.waiters[c]? = some w) : PendingOk t := by
  have hends : ∀ v, s.waiters[c]? = some v → (v.inPhase .done).phase = .check ∨ (v.inPhase .done).phase = .alloc ∨
      (v.inPhase .done).phase = .reg → (v.inPhase .done).signal = none := by simp [Waiter.inPhase]
  have hunsignalled (hphase : w.phase = .check ∨ w.phase = .alloc) (v : Waiter) (hv : s.waiters[c]? = some v) :
      v.signal = none := by
    obtain rfl := Option.some.inj (hw.symm.trans hv)
    exact hs.unsignalled w (List.mem_of_getElem? hw) (hphase.imp_right .inl)
  cases h with
  | closed phase => exact hs.modifyWaiter (hs.not_named hw (.inl (by simp [phase]))) rfl hends
  | passed phase =>
    exact hs.modifyWaiter (hs.not_named hw (.inl (by simp [phase]))) rfl fun v hv _ => hunsignalled (.inl phase) v hv
  | alloc phase =>
    exact hs.modifyWaiter (hs.not_named hw (.inl (by simp [phase]))) rfl fun v hv _ => hunsignalled (.inr phase) v hv
  | reuse => exact hs.congr rfl rfl
  | register phase => exact hs.register hw phase rfl rfl
  | completed r _ signal => exact hs.modifyWaiter (hs.not_named hw (.inr (by simp [signal]))) rfl hends

/-- A timeout leaves no entry that names the slot: in a canonical map the slot's own id has one entry (R407). -/
theorem PendingOk.waiterTimeout (hs : PendingOk s) (hmaps : MapsOk s) {c : Nat} (h : waiterTimeUp c s = true) :
    PendingOk (waiterTimeout c s) := by
  obtain ⟨w, hw, -, heq⟩ := waiterTimeout_eq h
  obtain ⟨hdrop, -⟩ | ⟨hdrop, hother⟩ := dropRecord_cases c w s <;> rw [heq, hdrop]
  · exact hs.modifyWaiter (hs.not_named_del hw) rfl (by simp [Waiter.inPhase])
  · refine hs.modifyWaiter (fun e he => ⟨he, ?_⟩) rfl (by simp [Waiter.inPhase])
    rintro rfl
    obtain ⟨-, -, htid⟩ := hs.slot he hw
    exact hother e.2 (htid ▸ Assoc.get_of_mem _ hmaps.pendingCanonical he) rfl

/-! ### Commands, events and steps -/

/-- A fresh slot is unsignalled, and the entries go on naming the slots before it (R400). -/
theorem PendingOk.appendWaiter (hs : PendingOk s) {w : Waiter} (hw : w.signal = none)
    (hmap : t.tcpMap = s.tcpMap) (hwaiters : t.waiters = s.waiters ++ [w]) : PendingOk t where
  entries e he := by
    obtain ⟨v, hv, hfields⟩ := hs.entries e (hmap ▸ he)
    refine ⟨v, ?_, hfields⟩
    rw [hwaiters, List.getElem?_append_left (List.getElem?_eq_some_iff.1 hv).1]
    exact hv
  unsignalled v hv hphase := by
    rcases List.mem_append.1 (hwaiters ▸ hv) with hv | hv
    · exact hs.unsignalled v hv hphase
    · exact List.mem_singleton.1 hv ▸ hw

theorem PendingOk.of_streamPart (hs : PendingOk s) (h : streamPart t = streamPart s) : PendingOk t := by
  obtain ⟨-, -, hmap, -, -, -, hwaiters, -, -, -, -⟩ := streamPart_eq_iff.1 h
  exact hs.congr hmap hwaiters

theorem PendingOk.issue {h : Nat} {w : U32} {ops : Operands} {draw : Nat} (hs : PendingOk s)
    (hfire : Machine.fireEvent (.issue h w ops draw) s = .next t) : PendingOk t := by
  have hpresented : PendingOk (s.present h ops draw) := hs.congr rfl rfl
  obtain ⟨i, -, -, heff⟩ | ⟨-, rfl⟩ := fireEvent_issue hfire
  · obtain heq | ⟨u, -, rfl⟩ | ⟨-, -, r, rfl⟩ := heff.streamPart_cases
    · exact hpresented.of_streamPart heq
    · exact hs.appendWaiter (w := newWaiter u (s.present h ops draw)) rfl rfl rfl
    · exact hpresented.closeSweep.congr rfl rfl
  · exact hs.congr rfl rfl

theorem pendingOk_afterReset (s : State) : PendingOk s.afterReset := ⟨List.forall_mem_nil _, List.forall_mem_nil _⟩

theorem PendingOk.fireEvent {e : Event} (he : eventEnabled e s = true) (h : fireEvent e s = .next t) (hmaps : MapsOk s)
    (hs : PendingOk s) : PendingOk t := by
  cases e with
  | issue => exact hs.issue h
  | rtuSend | rtuRead | rtuReadError | rtuExpire | serArrive => exact hs.of_streamPart (fireEvent_serial rfl he h).1
  | twWrite k ioerr => cases h; exact hs.writerStep k ioerr
  | trRead =>
    obtain ⟨b, rest, -, htake⟩ := readerStep_takes he
    have htaken : PendingOk { s with tcpIn := rest } := hs.congr rfl rfl
    cases h
    exact htake ▸ htaken.readerByte b
  | trIoError => cases h; exact hs.fatal .io
  | waiterRun c =>
    obtain ⟨w, hw, heff⟩ := waiterRun_effect he
    cases h
    exact heff.pendingOk hs hw
  | waiterTimeout c => cases h; exact hs.waiterTimeout hmaps he
  | consume | tick | tcpArrive => cases h; exact hs.congr rfl rfl
  | reset => cases h; exact pendingOk_afterReset s

/-- Settles O56: an entry is made for an unsignalled slot, and it is gone when that slot is signalled, ends or times out. -/
theorem stepKeepsPendingEntriesUnsignalled : Obligations.StepKeepsPendingEntriesUnsignalled :=
  fun _ _ hmaps hs h =>
    (step_keeps (P := fun s => MapsOk s ∧ PendingOk s) (fun _ _ _ hs => ⟨{ hs.1 with }, hs.2.congr rfl rfl⟩)
      (fun s => ⟨mapsOk_afterReset s, pendingOk_afterReset s⟩)
      (fun _ _ _ he hfire hs => ⟨hs.1.fireEvent he hfire, hs.2.fireEvent he hfire hs.1⟩) ⟨hmaps, hs⟩ h).2

end Sys2Proof.Machine
end

section
/-! PROOF. Completions, the close sweep and a fatal error (R410, R411, R420), and the stream transport's commands (R400,
R425). -/

namespace Sys2Proof.Machine

variable {s : State}

/-! ### Completions -/

/-- The slots of the given waiters after a completion of each of the entries. -/
def signalAll (entries : Assoc Pending) (r : Result) (ws : List Waiter) : List Waiter :=
  entries.foldl (fun ws e => ws.modify e.2.waiter (Waiter.signalled r)) ws

theorem length_signalAll (entries : Assoc Pending) (r : Result) (ws : List Waiter) :
    (signalAll entries r ws).length = ws.length := by
  induction entries generalizing ws with
  | nil => rfl
  | cons e rest ih => exact (ih _).trans (List.length_modify ..)

/-- The slots that an entry names are signalled, and no other slot changes: a signal written twice is written once. -/
theorem getElem?_signalAll (entries : Assoc Pending) (r : Result) (ws : List Waiter) (c : Nat) :
    (signalAll entries r ws)[c]? =
      ws[c]?.map fun w => if ∃ e ∈ entries, e.2.waiter = c then w.signalled r else w := by
  induction entries generalizing ws with
  | nil => simp [signalAll]
  | cons e rest ih =>
    have hrest : (signalAll (e :: rest) r ws)[c]? = _ := ih (ws.modify e.2.waiter (Waiter.signalled r))
    rw [hrest, List.getElem?_modify]
    cases ws[c]? with
    | none => rfl
    | some w =>
      by_cases hc : e.2.waiter = c
      · simp [hc, Waiter.signalled]
      · simp only [List.mem_cons, exists_eq_or_imp, hc, false_or, if_false, Option.map_eq_map, Option.map_some]

/-- A second completion of an id finds no entry (R410). -/
theorem complete_complete (tid : Nat) (r1 r2 : Result) (s : State) :
    complete tid r2 (complete tid r1 s) = complete tid r1 s := by
  obtain ⟨hget, heq⟩ | ⟨p, -, heq⟩ := complete_cases tid r1 s <;> rw [heq]
  · exact complete_of_none hget r2
  · exact complete_of_none (Assoc.get_del_same _ _) r2

/-! ### The close sweep -/

/-- The close sweep of a canonical map completes every entry (R411). -/
theorem closeSweep_eq (hmap : s.tcpMap.wf = true) : closeSweep s =
    { s with
      tcpClosed := true, tcpOpen := false, twState := .stop, trState := .rdStop, tcpMap := [], tcpQueue := [],
      waiters := signalAll s.tcpMap (closedError s.tcpFatal) s.waiters } := by
  obtain ⟨m, ws, heq⟩ := closeSweep_frame s
  have hempty : (closeSweep s).tcpMap = [] := completeAll_empties _ _ _ rfl hmap
  have hslots : (closeSweep s).waiters = signalAll s.tcpMap (closedError s.tcpFatal) s.waiters :=
    completeAll_waiters _ _ _ rfl hmap
  rw [← hempty, ← hslots, heq]

theorem FatalCause.orElse_eq (first cause : FatalCause) :
    first.orElse cause = if first = .none then cause else first := by
  split
  next h => rw [h]; rfl
  next h => exact FatalCause.orElse_of_ne h cause

/-- Settles O49: a completion deletes the entry it finds, and the sweep of a canonical map completes each entry once. -/
theorem completionIsOneShotAndCloseSweepsAll : Obligations.CompletionIsOneShotAndCloseSweepsAll := by
  refine ⟨fun tid r s hget => complete_of_none hget r, fun tid r s record w hget hw => ?_, complete_complete,
    fun s hmaps _ => ?_, fun cause s => ?_⟩
  · rw [complete_of_some hget, modify_of_getElem? hw]
    rfl
  · refine ⟨_, closeSweep_eq hmaps.pendingCanonical, length_signalAll .., fun c w hw => ?_⟩
    rw [getElem?_signalAll, hw]
    exact ⟨fun hnamed => congrArg some (if_pos hnamed), fun hother => congrArg some (if_neg (by simpa using hother))⟩
  · rw [fatal, FatalCause.orElse_eq]

/-! ### The commands -/

/-- Settles O45: the argument of the word is the unit, and the slot's fields are those of `newWaiter`. -/
theorem tcpWriteRequestCreatesAWaiter : Obligations.TcpWriteRequestCreatesAWaiter :=
  ⟨fun _ => decodeCommand_of_argCommand (op := 0x70) rfl, fun _ _ => rfl⟩

theorem exec_tcpClose_open (h : s.tcpClosed = false) :
    exec .tcpClose s = .next ((closeSweep s).reply s.port.host (closeResult s.port.draw)) := by
  refine (if_neg (Bool.eq_false_iff.1 h)).trans ?_
  rw [State.answer_eq, closeSweep_port]

theorem exec_tcpClose_closed (h : s.tcpClosed = true) :
    exec .tcpClose s = .next (s.answer (closeAgainResult (closedError s.tcpFatal) s.port.draw)) := if_pos h

/-- A draw below the set's size is the index of the member it picks (R17). -/
theorem getElem?_eq_drawFrom {α : Type} {d : Nat} {x : α} {others : List α} (hd : d < (x :: others).length) :
    (x :: others)[d]? = some (drawFrom d x others) := by
  rw [drawFrom, ← List.length_cons (a := x), Nat.mod_eq_of_lt hd, List.getD_eq_getElem _ _ hd,
    List.getElem?_eq_getElem hd]

/-- Settles O53: what a close draws is a member of its set, each member is drawn, and only a first close sweeps. -/
theorem tcpCloseSweepsAndDrawsItsResult : Obligations.TcpCloseSweepsAndDrawsItsResult := by
  refine ⟨rfl, ?_⟩
  intro first again
  refine ⟨fun s hopen => ⟨_, drawFrom_mem s.port.draw _ _, exec_tcpClose_open hopen⟩, fun r hr => ?_,
    fun s hclosed => ⟨_, drawFrom_mem s.port.draw _ _, exec_tcpClose_closed hclosed⟩, fun k hk => ⟨k, ?_⟩⟩
  · obtain ⟨d, hd⟩ := exists_drawFrom_eq hr
    refine ⟨d, fun s hdraw hopen => ?_⟩
    rw [exec_tcpClose_open hopen, closeResult, hdraw, hd]
  · rintro s rfl hclosed
    exact ⟨_, getElem?_eq_drawFrom hk, exec_tcpClose_closed hclosed⟩

end Sys2Proof.Machine
end

section
/-! PROOF. The waiters' steps, phase by phase (R402, R404 to R407, R430). -/

namespace Sys2Proof.Machine

/-! ### Guards -/

section Waiters

variable {s : State} {c : Nat} {w : Waiter} (hw : s.waiters[c]? = some w)

include hw

/-- The phases whose step is enabled (R402, R404, R405, R406). -/
theorem waiterCanRun_iff : waiterCanRun c s = true ↔
    w.phase = .check ∨ w.phase = .alloc ∨ w.phase = .reg ∨ w.phase = .wait ∧ w.signal.isSome = true := by
  simp only [waiterCanRun, hw]
  cases w.phase <;> simp

/-- The timeout guard (R407). -/
theorem waiterTimeUp_iff : waiterTimeUp c s = true ↔ w.phase = .wait ∧ w.t0 + w.tmo.toNat ≤ s.now := by
  simp only [waiterTimeUp, hw, decide_eq_true_eq, ge_iff_le]

/-! ### Effects -/

theorem updateWaiter_of_getElem? (f : Waiter → Waiter) :
    s.updateWaiter c f = { s with waiters := s.waiters.set c (f w) } := by
  rw [State.updateWaiter, modify_of_getElem? hw]

theorem waiterEnd_of_getElem? (r : Result) : waiterEnd c w r s =
    { s with results := s.results.put w.host r, waiters := s.waiters.set c { w with phase := .done } } := by
  rw [waiterEnd_eq, modify_of_getElem? hw]
  rfl

theorem waiterRun_check (hphase : w.phase = .check) : waiterRun c s = waiterCheck c w s := by
  simp only [waiterRun, hw, hphase]

theorem waiterRun_alloc (hphase : w.phase = .alloc) : waiterRun c s = waiterAlloc c s := by
  simp only [waiterRun, hw, hphase]

theorem waiterRun_reg (hphase : w.phase = .reg) : waiterRun c s = waiterRegister c w s := by
  simp only [waiterRun, hw, hphase]

theorem waiterRun_wait {r : Result} (hphase : w.phase = .wait) (hsignal : w.signal = some r) :
    waiterRun c s = waiterEnd c w r s := by
  simp only [waiterRun, hw, hphase, hsignal]

/-- An allocation takes the counter's value and adds one to the counter, wrapping at 0xFFFF (R404). -/
theorem waiterAlloc_of_getElem? : waiterAlloc c s =
    { s with
      tcpTid := BitVec.ofNat 16 ((s.tcpTid.toNat + 1) % 65536)
      waiters := s.waiters.set c { w with tid := s.tcpTid, phase := .reg } } := by
  have hcounter : s.tcpTid + 1 = BitVec.ofNat 16 ((s.tcpTid.toNat + 1) % 65536) := by
    apply BitVec.eq_of_toNat_eq
    simp [BitVec.toNat_add]
  rw [waiterAlloc, updateWaiter_of_getElem? (s := { s with tcpTid := s.tcpTid + 1 }) hw, hcounter]

theorem waiterRegister_of_getElem? (hfree : s.tcpMap.get w.tid.toNat = none) : waiterRegister c w s =
    { s with
      tcpMap := s.tcpMap.put w.tid.toNat { unit := w.unit, req := w.req, waiter := c }
      tcpQueue := s.tcpQueue ++ [{ tid := w.tid, unit := w.unit, req := w.req }]
      waiters := s.waiters.set c { w with phase := .wait } } := by
  rw [waiterRegister, hfree]
  exact updateWaiter_of_getElem? (s := { s with
    tcpMap := s.tcpMap.put w.tid.toNat { unit := w.unit, req := w.req, waiter := c }
    tcpQueue := s.tcpQueue ++ [{ tid := w.tid, unit := w.unit, req := w.req }] }) hw _

/-- A timeout removes the slot's record, if it is the slot's own, and ends the request (R407). -/
theorem waiterTimeout_of_getElem? : waiterTimeout c s =
    { dropRecord c w s with
      results := s.results.put w.host (Result.err .errTimeout .none)
      waiters := s.waiters.set c { w with phase := .done } } := by
  simp only [waiterTimeout, hw]
  obtain ⟨heq, -⟩ | ⟨heq, -⟩ := dropRecord_cases c w s <;> rw [heq]
  · exact waiterEnd_of_getElem? (s := { s with tcpMap := s.tcpMap.del w.tid.toNat }) hw _
  · exact waiterEnd_of_getElem? hw _

end Waiters

/-- An id that is still registered is the fault `F_TID_REUSE` (R430). -/
theorem waiterRegister_reuse {s : State} {w : Waiter} (hused : s.tcpMap.get w.tid.toNat ≠ none) (c : Nat) :
    waiterRegister c w s = s.raise .fTidReuse := if_pos (Option.isSome_iff_ne_none.2 hused)

theorem dropRecord_own {s : State} {c : Nat} {w : Waiter} {record : Pending}
    (hget : s.tcpMap.get w.tid.toNat = some record) (hown : record.waiter = c) :
    dropRecord c w s = { s with tcpMap := s.tcpMap.del w.tid.toNat } := by
  simp only [dropRecord, hget, hown, if_true]

theorem dropRecord_other {s : State} {c : Nat} {w : Waiter}
    (hother : ∀ record, s.tcpMap.get w.tid.toNat = some record → record.waiter ≠ c) : dropRecord c w s = s := by
  obtain ⟨-, record, hget, hown⟩ | ⟨heq, -⟩ := dropRecord_cases c w s
  · exact absurd hown (hother record hget)
  · exact heq

/-! ### Steps -/

/-- Settles O46: in each phase the waiter's step is enabled and is that phase's operation. -/
theorem waiterStepsFollowTheirPhases : Obligations.WaiterStepsFollowTheirPhases := by
  intro s c w hs hw becomes
  have fires {t : State} (hcan : w.phase = .check ∨ w.phase = .alloc ∨ w.phase = .reg ∨
      w.phase = .wait ∧ w.signal.isSome = true) (heff : waiterRun c s = t) : runEvent (.waiterRun c) s = .next t :=
    (runEvent_fires (e := .waiterRun c) hs ((waiterCanRun_iff hw).2 hcan)).trans (congrArg Host.Outcome.next heff)
  refine ⟨fun hphase hclosed => fires (.inl hphase) ((waiterRun_check hw hphase).trans ?_),
    fun hphase hopen => fires (.inl hphase) ((waiterRun_check hw hphase).trans ?_),
    fun hphase => fires (.inr (.inl hphase)) ((waiterRun_alloc hw hphase).trans (waiterAlloc_of_getElem? hw)),
    fun hphase hfree => fires (.inr (.inr (.inl hphase)))
      ((waiterRun_reg hw hphase).trans (waiterRegister_of_getElem? hw hfree)),
    fun hphase hused => fires (.inr (.inr (.inl hphase))) ((waiterRun_reg hw hphase).trans (waiterRegister_reuse hused c)),
    fun r hphase hsignal => fires (.inr (.inr (.inr ⟨hphase, Option.isSome_of_eq_some hsignal⟩)))
      ((waiterRun_wait hw hphase hsignal).trans (waiterEnd_of_getElem? hw r))⟩
  · exact (if_pos hclosed).trans (waiterEnd_of_getElem? hw _)
  · exact (if_neg (by simp [hopen])).trans (updateWaiter_of_getElem? hw _)

/-- Settles O47: the guard is the time, and the record removed is the one that names the slot. -/
theorem waiterTimesOutAndRemovesItsRecord : Obligations.WaiterTimesOutAndRemovesItsRecord := by
  intro s c w hs hw hphase ends
  have timeUp (htime : w.t0 + w.tmo.toNat ≤ s.now) : eventEnabled (.waiterTimeout c) s = true :=
    (waiterTimeUp_iff hw).2 ⟨hphase, htime⟩
  have fires (htime : w.t0 + w.tmo.toNat ≤ s.now) {t : State} (heff : waiterTimeout c s = t) :
      runEvent (.waiterTimeout c) s = .next t :=
    (runEvent_fires hs (timeUp htime)).trans (congrArg Host.Outcome.next heff)
  refine ⟨fun htime record hget hown => fires htime ?_, fun htime hother => fires htime ?_, fun hearly => ?_,
    fun htime hsignal => ⟨(waiterCanRun_iff hw).2 (.inr (.inr (.inr ⟨hphase, hsignal⟩))), timeUp htime⟩⟩
  · rw [waiterTimeout_of_getElem? hw, dropRecord_own hget hown]
    rfl
  · rw [waiterTimeout_of_getElem? hw, dropRecord_other hother]
    rfl
  · have hdisabled : eventEnabled (.waiterTimeout c) s = false :=
      Bool.eq_false_iff.2 fun h => Nat.not_le.2 hearly ((waiterTimeUp_iff hw).1 h).2
    exact ⟨hdisabled, (runEvent_of_healthy hs _).trans (if_neg (by simp [hdisabled]))⟩

end Sys2Proof.Machine
end

section
/-! PROOF. The steps of the writer loop (R88, R412, R413) and of the reader loop (R414 to R416, R418), outcome by outcome. -/

namespace Sys2Proof.Machine

/-! ### The writer loop -/

section Writer

variable {s : State} {k : Nat} {ioerr : Bool} {q : QItem} {rest : List QItem} (hq : s.tcpQueue = q :: rest)

include hq

theorem writerStep_overflow (hsize : 0xFFFE < q.req.marshal.length) :
    writerStep k ioerr s = { s with tcpQueue := rest }.raise .fMbapOverflow := by
  simp only [writerStep, hq]
  exact if_pos hsize

/-- A write that did not succeed completes its own request with the write's error (R412). -/
theorem writerStep_of_writeError {out : Bytes} {o : WriteOutcome} {e : Result} (hsize : q.req.marshal.length ≤ 0xFFFE)
    (hwrite : streamWrite s.tcpOpen k ioerr (mbapFrame q.tid q.unit q.req.marshal) = (out, o))
    (herror : writeError o = some e) :
    writerStep k ioerr s = complete q.tid.toNat e { s with tcpQueue := rest, tcpOut := s.tcpOut ++ out } := by
  simp only [writerStep, hq]
  refine (if_neg (Nat.not_lt.2 hsize)).trans ?_
  simp only [hwrite, herror, tcpWrite]

/-- A full write appends the frame and completes nothing (R412). -/
theorem writerStep_of_full {frame : Bytes} (hsize : q.req.marshal.length ≤ 0xFFFE)
    (hwrite : streamWrite s.tcpOpen k ioerr (mbapFrame q.tid q.unit q.req.marshal) = (frame, .full)) :
    writerStep k ioerr s = { s with tcpQueue := rest, tcpOut := s.tcpOut ++ frame } := by
  simp only [writerStep, hq]
  refine (if_neg (Nat.not_lt.2 hsize)).trans ?_
  simp only [hwrite, writeError, tcpWrite]

end Writer

/-- Settles O48: a PDU too long for a frame is tested first, and then the write fails closed, by I/O error or short, or takes
the whole frame. -/
theorem writerWritesTheHeadOfTheQueue : Obligations.WriterWritesTheHeadOfTheQueue := by
  intro s k ioerr q rest hs hrun hq p frame wrote
  have fires {t : State} (heff : writerStep k ioerr s = t) : runEvent (.twWrite k ioerr) s = .next t :=
    (runEvent_fires hs (by simp [eventEnabled, hrun, hq])).trans (congrArg Host.Outcome.next heff)
  refine ⟨fun hsize => fires (writerStep_overflow hq hsize), fun hsize => ⟨fun hclosed => ?_, fun hopen hio => ?_,
    fun hopen hio hk => ?_, fun hopen hio hk => ?_⟩⟩
  · exact fires (writerStep_of_writeError hq hsize (by rw [hclosed]; exact streamWrite_closed ..) rfl)
  · exact fires (writerStep_of_writeError hq hsize (by rw [hopen, hio]; exact streamWrite_ioErr ..) rfl)
  · exact fires (writerStep_of_writeError hq hsize (by rw [hopen, hio]; exact streamWrite_short hk) rfl)
  · exact fires (writerStep_of_full hq hsize (by rw [hopen, hio]; exact streamWrite_full hk))

/-! ### The reader loop -/

section Reader

variable {s : State}

/-- A running reader takes the head of `tcp_in` (R89). -/
theorem runEvent_trRead {b : Byte} {bytes : Bytes} (hs : Healthy s) (hopen : s.tcpOpen = true)
    (hrun : s.trState ≠ .rdStop) (hin : s.tcpIn = b :: bytes) :
    runEvent .trRead s = .next (readerByte b { s with tcpIn := bytes }) := by
  rw [runEvent_fires hs (by simp [eventEnabled, hopen, hrun, hin]), fireEvent, readerStep, hin]

/-- The seventh byte completes the header, whose fields are then checked (R414, R415). -/
theorem readerByte_seventh {t1 t0 p1 p0 l1 l0 : Byte} (u : Byte) (hst : s.trState = .rdHdr [t1, t0, p1, p0, l1, l0]) :
    readerByte u s = readerFields (rd16 t1 t0) (rd16 p1 p0) (rd16 l1 l0) u s := by
  simp only [readerByte, hst]
  exact if_neg (Nat.lt_irrefl 7)

/-- The last byte of a body completes the request (R416). -/
theorem readerByte_lastOfBody {tid : U16} {unit : Byte} {need : Nat} {buf : Bytes} (b : Byte)
    (hst : s.trState = .rdBody tid unit need buf) (hlast : buf.length + 1 = need) :
    readerByte b s = { complete tid.toNat (bodyResult need (buf ++ [b])) s with trState := .rdHdr [] } := by
  simp only [readerByte, hst]
  exact if_neg (by rw [List.length_append, List.length_singleton, hlast]; exact Nat.lt_irrefl _)

/-! The checks of a header's fields, in the order of R415. -/

theorem readerFields_protocolId {proto : U16} (hproto : proto ≠ 0) (tid length : U16) (unit : Byte) :
    readerFields tid proto length unit s = fatal .protocolId s := if_pos hproto

theorem readerFields_unknownTid {tid : U16} (hget : s.tcpMap.get tid.toNat = none) (length : U16) (unit : Byte) :
    readerFields tid 0 length unit s = fatal .unknownTid s := by
  refine (if_neg (not_not.2 rfl)).trans ?_
  rw [hget]

section Registered

variable {tid : U16} {record : Pending} (hget : s.tcpMap.get tid.toNat = some record)

include hget

theorem readerFields_unitMismatch {unit : Byte} (hunit : unit ≠ record.unit) (length : U16) :
    readerFields tid 0 length unit s = fatal .unitMismatch s := by
  refine (if_neg (not_not.2 rfl)).trans ?_
  simp only [hget, if_pos hunit]

/-- With protocol id, transaction id and unit id right, the length decides (R415). -/
theorem readerFields_length (length : U16) :
    readerFields tid 0 length record.unit s =
      if length.toNat = 0 then fatal .length s
      else if length.toNat - 1 = 0 then { complete tid.toNat shortPdu s with trState := .rdHdr [] }
      else { s with trState := .rdBody tid record.unit (length.toNat - 1) [] } := by
  refine (if_neg (not_not.2 rfl)).trans ?_
  simp only [hget, ne_eq, not_true, if_false]

end Registered

end Reader

/-- A big-endian word is zero exactly when both its bytes are. -/
theorem rd16_eq_zero_iff {hi lo : Byte} : rd16 hi lo = 0 ↔ hi = 0 ∧ lo = 0 := by
  constructor
  · intro h
    have hbytes : [hi, lo] = [0, 0] := by rw [← be16_rd16, h]; rfl
    simpa using hbytes
  · rintro ⟨rfl, rfl⟩
    rfl

/-- Settles O50: six bytes are buffered, and behind the seventh the fields are checked in the order of R415. -/
theorem readerChecksTheHeaderInOrder : Obligations.ReaderChecksTheHeaderInOrder := by
  intro s hs hopen
  refine ⟨fun hrun => runEvent_fires hs (by simp [eventEnabled, hopen, hrun]), ?_⟩
  intro u bytes hin taken
  have reads {buf : Bytes} {t : State} (hst : s.trState = .rdHdr buf) (hbyte : readerByte u taken = t) :
      runEvent .trRead s = .next t :=
    (runEvent_trRead hs hopen (by simp [hst]) hin).trans (congrArg Host.Outcome.next hbyte)
  refine ⟨fun buf hst hfits => reads hst (readerByte_buffersHeader hst (by omega)), ?_⟩
  intro t1 t0 p1 p0 l1 l0 hst tid length
  have htid : (rd16 t1 t0).toNat = tid := rd16_toNat t1 t0
  have hlength : (rd16 l1 l0).toNat = length := rd16_toNat l1 l0
  have checks {t : State} (hfields : readerFields (rd16 t1 t0) (rd16 p1 p0) (rd16 l1 l0) u taken = t) :
      runEvent .trRead s = .next t := reads hst ((readerByte_seventh (s := taken) u hst).trans hfields)
  refine ⟨fun hproto => checks (readerFields_protocolId (mt rd16_eq_zero_iff.1 hproto) ..), fun hp1 hp0 => ?_⟩
  rw [rd16_eq_zero_iff.2 ⟨hp1, hp0⟩] at checks
  rw [← htid, ← hlength]
  refine ⟨fun hget => checks (readerFields_unknownTid (s := taken) hget ..), fun record hget =>
    ⟨fun hunit => checks (readerFields_unitMismatch (s := taken) hget hunit _), fun hunit => ?_⟩⟩
  subst hunit
  have hfields := readerFields_length (s := taken) hget (rd16 l1 l0)
  refine ⟨fun hzero => ?_, fun hone => ?_, fun htwo => ?_⟩
  · exact checks (hfields.trans (if_pos hzero))
  · exact checks (hfields.trans ((if_neg (by omega)).trans (if_pos (by omega))))
  · rw [BitVec.ofNat_toNat, BitVec.setWidth_eq]
    exact checks (hfields.trans ((if_neg (by omega)).trans (if_neg (by omega))))

/-- Settles O51: the byte is buffered, or it is the last and hands the body's result to the request. -/
theorem readerCompletesTheBody : Obligations.ReaderCompletesTheBody := by
  intro s b bytes tid unit need buf hs hopen hin hst taken
  have reads {t : State} (hbyte : readerByte b taken = t) : runEvent .trRead s = .next t :=
    (runEvent_trRead hs hopen (by simp [hst]) hin).trans (congrArg Host.Outcome.next hbyte)
  have completes (hlast : buf.length + 1 = need) {r : Result} (hresult : bodyResult need (buf ++ [b]) = r) :
      runEvent .trRead s = .next { complete tid.toNat r taken with trState := .rdHdr [] } :=
    reads (hresult ▸ readerByte_lastOfBody b hst hlast)
  refine ⟨fun hfits => reads (readerByte_buffersBody hst hfits),
    fun hlast hshort => completes hlast (if_pos hshort), fun b0 b1 rest hlast hbody => completes hlast ?_⟩
  have hneed : ¬ need < 2 := by
    rw [← hlast, ← List.length_singleton (a := b), ← List.length_append, hbody]
    simp
  rw [hbody]
  exact if_neg hneed

end Sys2Proof.Machine
end

section
/-! PROOF. Reset (R500): it leads from every state, one with a recorded fault too, to the reset values, which meet the
invariant. -/

namespace Sys2Proof.Machine

/-- A reset is enabled in every state and happens whatever fault is recorded (R500, R502). -/
theorem runEvent_reset (s : State) : runEvent .reset s = .next s.afterReset := rfl

/-- Settles O1: each element's value by the definition of `State.reset`, line by line as the statement lists them, and the
reset event's effect by `runEvent_reset`. -/
theorem resetSetsEveryElement : Obligations.ResetSetsEveryElement :=
  ⟨rfl, rfl, rfl, rfl, rfl,
    rfl, rfl, rfl, rfl, rfl, rfl,
    rfl, rfl, rfl, rfl, rfl, rfl,
    rfl, rfl, rfl, rfl, rfl, rfl,
    rfl, rfl, rfl, rfl, Assoc.get_nil,
    runEvent_reset⟩

/-- A reset establishes the invariant from every state: each part of it holds after one, whatever held before. -/
theorem inv_afterReset (s : State) : s.afterReset.Inv where
  maps := mapsOk_afterReset s
  pending := pendingOk_afterReset s
  serial := serialOk_afterReset s
  stream := streamOk_afterReset s
  pdus := pdusOk_afterReset s
  ports := portsOk_afterReset s

/-- Settles O54: the reset state is what a reset leads to from itself. -/
theorem resetMeetsTheInvariant : Obligations.ResetMeetsTheInvariant := inv_afterReset State.reset

end Sys2Proof.Machine
end
